-- ==== Sys2Proof/Word.lean ====
section
/-! DEFINITION. The two word types of the block: CSRs are 32 bits wide (10_state.md R21), BUF holds bytes (20_memory.md R61). -/

namespace Sys2Proof

/-- A u32: a CSR's contents, a command word, a CRC (00_scope.md R7, R9). -/
abbrev Word := BitVec 32

/-- A u8: one byte of BUF or of a byte sequence (00_scope.md R10). -/
abbrev Byte := BitVec 8

end Sys2Proof
end

