-- ==== Sys2Proof/Config.lean ====
section
/-! DEFINITION. What an implementation fixes (00_scope.md R7) and the free values of the model (93_implementation_defined.md U1 to U4). -/

namespace Sys2Proof

/-- The implementation parameters of 00_scope.md R7. They are an argument of the model: `State` carries them, no step changes them. -/
structure Params where
  /-- P_BUF_BYTES: the size of BUF in bytes. -/
  bufBytes : Nat
  /-- P_CSR_BASE: host bus address of CSR offset 0. -/
  csrBase : Nat
  /-- P_BUF_BASE: host bus address of BUF byte 0. -/
  bufBase : Nat
  /-- P_VALID_INCLUDES_RESERVED: VALID also requires RESERVED_VALID. -/
  validIncludesReserved : Bool
  deriving DecidableEq, Repr

/-- The constraint of 00_scope.md R7 on P_BUF_BYTES, and windows that do not overlap (20_memory.md R71). -/
abbrev Params.wf (p : Params) : Prop :=
  4 ∣ p.bufBytes ∧ 16 ≤ p.bufBytes ∧ p.bufBytes ≤ 2 ^ 31 ∧
    (p.csrBase + 0x100 ≤ p.bufBase ∨ p.bufBase + p.bufBytes ≤ p.csrBase)

namespace Config

/-- The parameters `State.reset` takes. DESIGN CHOICE (log 2), unsafe: the spec leaves the first three OPEN
(1024 is the size 95_test_vectors.md assumes); P_VALID_INCLUDES_RESERVED = 0 is the spec's default.
No statement about the machine rests on these values. -/
def resetParams : Params :=
  { bufBytes := 1024, csrBase := 0, bufBase := 0x80000000, validIncludesReserved := false }

/-- FREE VALUE (log 3), safe: the value after power-on of the BUF byte at an offset, kept until it is written (20_memory.md R62). -/
opaque powerOnByte : Nat → Byte

/-- FREE VALUE (log 4), safe: the word drawn at the given draw, for a result register read while BUSY (10_state.md R54)
and for the data of a read that gets BUSERR (20_memory.md R68). -/
opaque freeWord : Nat → Word

/-- FREE VALUE (log 4), safe: the byte drawn at the given draw, for the destination of an aborted write (70_reset_and_hazards.md R231). -/
opaque freeByte : Nat → Byte

end Config

end Sys2Proof
end

