-- ==== Sys2Proof/Syntax.lean ====
section
/-! DEFINITION. The commands of the block, one constructor per row of spec/opcode_table.json (30_encoding.md R82, R83).
Operands are implicit CSRs (R80, R85), so only an illegal word carries data: the word itself. -/

namespace Sys2Proof

/-- The 13 outcomes of decoding a command word (30_encoding.md R82). -/
inductive Instr where
  | nop
  | crcInit
  | crcUpdate
  | crcFinal
  | chunkNew
  | typeClassify
  | typeCheckText
  | chunkParse
  | chunkSerialize
  | sigCheck
  | sigWrite
  | streamParse
  | badCommand (w : Word)
  deriving DecidableEq, Repr

end Sys2Proof
end

