-- ==== Sys2Proof/Machine/State.lean ====
section
/-! DEFINITION. The state of the block (10_state.md R20), the host's moves and the bus tuples (20_memory.md R60), as plain data. -/

namespace Sys2Proof.Machine

open Sys2Proof

/-- SEQ: IDLE, or BUSY with the accepted CMD word (10_state.md R40). -/
inductive Seq where
  | idle
  | busy (w : Word)
  deriving DecidableEq, Repr

/-- The error kinds of 60_exceptions.md R200, codes 0 to 8. -/
inductive ErrCode where
  | none
  | badSignature
  | truncated
  /-- Reserved, never raised (60_exceptions.md R201). -/
  | unknownLength
  | crcMismatch
  | nonAlphabetic
  | badCommand
  | range
  | overlap
  deriving DecidableEq, Repr

/-- The 21 CSRs of 10_state.md R22. -/
inductive Csr where
  | id | ctrl | status | cmd | intStatus | intEnable
  | src | len | dst | type | crcState
  | crcResult | chunkLen | chunkCrc | ptype | typeFlags | next | chunkCount | errOff
  | config | features
  deriving DecidableEq, Repr

/-- The two host-facing ports (20_memory.md R60). -/
inductive Port where
  | csr
  | buf
  deriving DecidableEq, Repr

/-- Direction of an access, with the write data (20_memory.md R60). -/
inductive Dir where
  | read
  | write (data : Word)
  deriving DecidableEq, Repr

/-- A host access: (port, offset, width in bytes, read or write, write data) (20_memory.md R60). -/
structure Access where
  port : Port
  offset : Nat
  width : Nat
  dir : Dir
  deriving DecidableEq, Repr

/-- The response to one access: OK or BUSERR, and a read's data (20_memory.md R60). -/
inductive Response where
  /-- OK to a write. -/
  | written
  /-- OK to a 1-byte read, with data bits 7:0. -/
  | byte (b : Byte)
  /-- OK to a 4-byte read. -/
  | word (w : Word)
  /-- BUSERR to a write. -/
  | busErr
  /-- BUSERR to a read; the data is unspecified (20_memory.md R68). -/
  | busErrData (w : Word)
  deriving DecidableEq, Repr

/-- What moves next: the host, the block, or both at once (60_exceptions.md R214). MODEL'S OWN, log 1. -/
inductive Move where
  /-- The host performs one access. -/
  | host (a : Access)
  /-- The block completes its pending command (always enabled while BUSY, 70_reset_and_hazards.md R240). -/
  | block
  /-- The host performs one access in the same step as the block completes (60_exceptions.md R214). -/
  | both (a : Access)
  /-- The pseudo-instruction `wait` of 30_encoding.md R91: reads of INT_STATUS until DONE is 1; the block completes
  after `polls` more reads that saw it 0 (any finite number, 93_implementation_defined.md U6). -/
  | wait (polls : Nat)
  deriving DecidableEq, Repr

/-- Why a step stops. No state of the model reaches either (log 5): each guards a sentence of the spec. -/
inductive Fault where
  /-- Raised by a BUF access of a command past P_BUF_BYTES, which the range check rules out (00_scope.md R12). Safe. -/
  | outsideBuf (offset count : Nat)
  /-- Raised by a stream walk that ran out of fuel before its end, which 43_stream.md R164 rules out ("The loop ends"). Safe. -/
  | walkUnfinished
  deriving DecidableEq, Repr

/-- Why an instruction has no meaning. -/
inductive Refusal where
  /-- Raised by an arm of `exec` whose instruction has no meaning yet; no arm does. Safe. -/
  | notModelled (mnemonic : String)
  deriving DecidableEq, Repr

/-- The whole state: the parameters, SEQ, the CSRs that hold something (ID, CTRL and CMD read as constants), BUF,
and the model's own `draws`, `moves`, `replies`. -/
structure State where
  /-- The parameters; home of CONFIG (10_state.md R44) and FEATURES (R45). -/
  params : Params
  /-- SEQ (10_state.md R40). -/
  seq : Seq
  /-- STATUS (10_state.md R26). -/
  status : Word
  /-- INT_STATUS (10_state.md R28). -/
  intStatus : Word
  /-- INT_ENABLE (10_state.md R29). -/
  intEnable : Word
  /-- SRC (10_state.md R30). -/
  src : Word
  /-- LEN (10_state.md R31). -/
  len : Word
  /-- DST (10_state.md R32). -/
  dst : Word
  /-- TYPE, byte 0 in bits 31:24 (10_state.md R33). -/
  type : Word
  /-- CRC_STATE, the running CRC before inversion (10_state.md R34). -/
  crcState : Word
  /-- CRC_RESULT (10_state.md R35). -/
  crcResult : Word
  /-- CHUNK_LEN (10_state.md R36). -/
  chunkLen : Word
  /-- CHUNK_CRC (10_state.md R37). -/
  chunkCrc : Word
  /-- PTYPE (10_state.md R38). -/
  ptype : Word
  /-- TYPE_FLAGS (10_state.md R39). -/
  typeFlags : Word
  /-- NEXT (10_state.md R41). -/
  next : Word
  /-- CHUNK_COUNT (10_state.md R42). -/
  chunkCount : Word
  /-- ERR_OFF (10_state.md R43). -/
  errOff : Word
  /-- The bytes of BUF written since power-on, by rising offset (20_memory.md R61, R62; log 3). -/
  buf : List Host.Cell
  /-- MODEL'S OWN (log 4): how many free values have been drawn. -/
  draws : Nat
  /-- MODEL'S OWN (log 1): the moves still to come, oldest first. -/
  moves : List Move
  /-- MODEL'S OWN (log 1): the responses the host has received, newest first. -/
  replies : List Response
  deriving DecidableEq, Repr

/-- The state after power-on reset of a block with parameters `p` (70_reset_and_hazards.md R230). -/
def State.powerOn (p : Params) : State where
  params := p
  seq := .idle
  status := 0
  intStatus := 0
  intEnable := 0
  src := 0
  len := 0
  dst := 0
  type := 0
  crcState := 0xFFFFFFFF#32
  crcResult := 0
  chunkLen := 0
  chunkCrc := 0
  ptype := 0
  typeFlags := 0
  next := 0
  chunkCount := 0
  errOff := 0
  buf := []
  draws := 0
  moves := []
  replies := []

/-- The machine right after power-on reset, at the parameters of log 2. -/
def State.reset : State := .powerOn Config.resetParams

/-- The three outcomes of a step over this state. -/
abbrev Result := Host.Outcome State Fault Refusal

end Sys2Proof.Machine
end

