-- ==== Sys2Proof/Machine/Operands.lean ====
section
/-! DEFINITION. Operand forms: byte order, ranges and overlap (00_scope.md R10, 30_encoding.md R85, 60_exceptions.md R204, 42_chunk.md R146). -/

namespace Sys2Proof.Machine

open Sys2Proof

/-- `bytes32(v)`: big-endian, most significant byte first (00_scope.md R10). -/
def bytes32 (v : Word) : List Byte :=
  [v.extractLsb' 24 8, v.extractLsb' 16 8, v.extractLsb' 8 8, v.extractLsb' 0 8]

/-- `be32(s)` of a 4-byte sequence (00_scope.md R10); used on four bytes only, 0 on any other length. -/
def be32 : List Byte → Word
  | [b0, b1, b2, b3] => b0 ++ b1 ++ b2 ++ b3
  | _ => 0

/-- A value stored into a 32-bit register (00_scope.md R9: every rule shows that it fits). -/
def word32 (n : Nat) : Word := BitVec.ofNat 32 n

/-- `SIG`, the fixed PNG magic (00_scope.md R15). -/
def sig : List Byte := [0x89#8, 0x50#8, 0x4E#8, 0x47#8, 0x0D#8, 0x0A#8, 0x1A#8, 0x0A#8]

/-- A range (a, n) lies in BUF; the sum is unbounded (60_exceptions.md R204). -/
abbrev State.inBuf (s : State) (a n : Nat) : Prop := a + n ≤ s.params.bufBytes

/-- The two ranges share a byte, on unbounded integers (42_chunk.md R146). -/
abbrev overlaps (a na b nb : Nat) : Prop := 0 < na ∧ 0 < nb ∧ a < b + nb ∧ b < a + na

/-- 12 + L: the bytes of a chunk record with L data bytes (30_encoding.md R87). -/
def recordSize (len : Nat) : Nat := 12 + len

end Sys2Proof.Machine
end

