-- ==== Sys2Proof/Machine/Flags.lean ====
section
/-! DEFINITION. Every flag the spec computes: STATUS (10_state.md R26), INT_STATUS (R28), `irq` (R46) and TYPE_FLAGS (R39, 40_chunk_type.md R100). -/

namespace Sys2Proof.Machine

open Sys2Proof

/-- The number of an error kind (60_exceptions.md R200). -/
def ErrCode.code : ErrCode → BitVec 4
  | .none => 0
  | .badSignature => 1
  | .truncated => 2
  | .unknownLength => 3
  | .crcMismatch => 4
  | .nonAlphabetic => 5
  | .badCommand => 6
  | .range => 7
  | .overlap => 8

/-- Whether SEQ is BUSY. -/
def Seq.isBusy : Seq → Bool
  | .idle => false
  | .busy _ => true

/-! STATUS fields (10_state.md R26). -/

/-- BUSY, bit 0. -/
def statusBusy (st : Word) : Bool := st.getLsbD 0

/-- ERR, bit 1. -/
def statusErr (st : Word) : Bool := st.getLsbD 1

/-- ERR_CODE, bits 11:8. -/
def statusErrCode (st : Word) : BitVec 4 := st.extractLsb' 8 4

/-- LAST_OP, bits 23:16. -/
def statusLastOp (st : Word) : Byte := st.extractLsb' 16 8

/-- `x[STATUS].BUSY <- b`. -/
def statusWithBusy (st : Word) (b : Bool) : Word := st.extractLsb' 1 31 ++ BitVec.ofBool b

/-- `x[STATUS].ERR <- b`. -/
def statusWithErr (st : Word) (b : Bool) : Word := st.extractLsb' 2 30 ++ BitVec.ofBool b ++ st.extractLsb' 0 1

/-- `x[STATUS].ERR_CODE <- c`. -/
def statusWithErrCode (st : Word) (c : BitVec 4) : Word := st.extractLsb' 12 20 ++ c ++ st.extractLsb' 0 8

/-- `x[STATUS].LAST_OP <- op`. -/
def statusWithLastOp (st : Word) (op : Byte) : Word := st.extractLsb' 24 8 ++ op ++ st.extractLsb' 0 16

/-- STATUS at acceptance of the command word `w` (10_state.md R52). -/
def statusAccepted (st w : Word) : Word := statusWithBusy (statusWithLastOp st (w.extractLsb' 0 8)) true

/-- STATUS at completion with error kind `e` (60_exceptions.md R210). -/
def statusCompleted (st : Word) (e : ErrCode) : Word :=
  statusWithBusy (statusWithErr (statusWithErrCode st e.code) (e.code != 0)) false

/-! INT_STATUS and INT_ENABLE (10_state.md R28, R29). -/

/-- DONE, bit 0. -/
def intDone : Word := 0x1#32

/-- ERR, bit 1. -/
def intErr : Word := 0x2#32

/-- OVR, bit 2. -/
def intOvr : Word := 0x4#32

/-- The defined bits of INT_STATUS and INT_ENABLE; bits 31:3 are reserved. -/
def intDefined : Word := 0x7#32

/-- INT_STATUS at completion with error kind `e` (60_exceptions.md R210): bits are set, none is cleared. -/
def intCompleted (int : Word) (e : ErrCode) : Word :=
  if e.code = 0 then int ||| intDone else int ||| intDone ||| intErr

/-- `irq`: some enabled INT_STATUS bit is 1 (10_state.md R46). -/
def State.irq (s : State) : Bool :=
  (s.intStatus.getLsbD 0 && s.intEnable.getLsbD 0) || (s.intStatus.getLsbD 1 && s.intEnable.getLsbD 1)
    || (s.intStatus.getLsbD 2 && s.intEnable.getLsbD 2)

/-! Type flags (00_scope.md R14, 40_chunk_type.md R100). -/

/-- 'A' to 'Z' (00_scope.md R14). -/
def isUpper (b : Byte) : Bool := 0x41 ≤ b.toNat && b.toNat ≤ 0x5A

/-- 'a' to 'z' (00_scope.md R14). -/
def isLower (b : Byte) : Bool := 0x61 ≤ b.toNat && b.toNat ≤ 0x7A

/-- An ASCII letter (00_scope.md R14). -/
def isAlpha (b : Byte) : Bool := isUpper b || isLower b

/-- Type byte i, byte 0 in bits 31:24 (10_state.md R33). -/
def typeByte (t : Word) (i : Nat) : Byte := t.extractLsb' (24 - 8 * i) 8

/-- CRITICAL: bit 5 of byte 0 is 0. -/
def isCritical (t : Word) : Bool := !(typeByte t 0).getLsbD 5

/-- PUBLIC: bit 5 of byte 1 is 0. -/
def isPublic (t : Word) : Bool := !(typeByte t 1).getLsbD 5

/-- RESERVED_VALID: byte 2 is ASCII uppercase (the whole byte, 40_chunk_type.md R103). -/
def isReservedValid (t : Word) : Bool := isUpper (typeByte t 2)

/-- SAFE_TO_COPY: bit 5 of byte 3 is 1. -/
def isSafeToCopy (t : Word) : Bool := (typeByte t 3).getLsbD 5

/-- ALPHA: all four bytes are letters. -/
def isAlphaType (t : Word) : Bool :=
  isAlpha (typeByte t 0) && isAlpha (typeByte t 1) && isAlpha (typeByte t 2) && isAlpha (typeByte t 3)

/-- VALID, with the parameter's branch of 40_chunk_type.md R100. -/
def isValidType (p : Params) (t : Word) : Bool :=
  isSafeToCopy t && isAlphaType t && (!p.validIncludesReserved || isReservedValid t)

/-- A one-bit value at bit position `k` of a word. -/
def flagAt (k : Nat) (b : Bool) : Word := if b then 1#32 <<< k else 0

/-- `classify(t)` (40_chunk_type.md R100), laid out as TYPE_FLAGS (10_state.md R39). -/
def classify (p : Params) (t : Word) : Word :=
  flagAt 0 (isCritical t) ||| flagAt 1 (isPublic t) ||| flagAt 2 (isReservedValid t) ||| flagAt 3 (isSafeToCopy t)
    ||| flagAt 4 (isAlphaType t) ||| flagAt 5 (isValidType p t)
    ||| flagAt 8 (isAlpha (typeByte t 0)) ||| flagAt 9 (isAlpha (typeByte t 1))
    ||| flagAt 10 (isAlpha (typeByte t 2)) ||| flagAt 11 (isAlpha (typeByte t 3))
    ||| flagAt 12 (isUpper (typeByte t 0)) ||| flagAt 13 (isUpper (typeByte t 1))
    ||| flagAt 14 (isUpper (typeByte t 2)) ||| flagAt 15 (isUpper (typeByte t 3))

/-- FEATURES: VALID_RES in bit 0 (10_state.md R45). -/
def featuresWord (p : Params) : Word := flagAt 0 p.validIncludesReserved

end Sys2Proof.Machine
end

