-- ==== Sys2Proof/Machine/Ops.lean ====
section
/-! DEFINITION. The shared operations: BUF, CSR reads, acceptance, completion and raising an error (00_scope.md R12, R13; 10_state.md R52; 60_exceptions.md R210). -/

namespace Sys2Proof.Machine

open Sys2Proof

/-! BUF: a list of the written bytes, by strictly rising offset (20_memory.md R61, R62; log 3). -/

/-- The byte written at an offset since power-on, if any. -/
def bufGet : List Host.Cell → Nat → Option Byte
  | [], _ => none
  | (k, b) :: rest, a => if k = a then some b else bufGet rest a

/-- Write one byte, keeping the offsets strictly rising. -/
def bufSet : List Host.Cell → Nat → Byte → List Host.Cell
  | [], a, b => [(a, b)]
  | (k, c) :: rest, a, b =>
    if a < k then (a, b) :: (k, c) :: rest
    else if a = k then (a, b) :: rest
    else (k, c) :: bufSet rest a b

/-- Write a byte sequence from offset `a` on (00_scope.md R12). -/
def bufSetBytes : List Host.Cell → Nat → List Byte → List Host.Cell
  | m, _, [] => m
  | m, a, b :: bs => bufSetBytes (bufSet m a b) (a + 1) bs

/-- The canonical form: offsets strictly rising, so one cell per written offset (log 3: an unlisted offset holds no written byte). -/
abbrev Memory.wf (m : List Host.Cell) : Prop := m.Pairwise (fun x y => x.1 < y.1)

/-- BUF[a]: the byte written there, else its power-on value, a free value kept until written (20_memory.md R62). -/
def State.byteAt (s : State) (a : Nat) : Byte := (bufGet s.buf a).getD (Config.powerOnByte a)

/-- `[BUF[a], ..., BUF[a+n-1]]` (00_scope.md R12). -/
def State.bytesAt (s : State) (a : Nat) : Nat → List Byte
  | 0 => []
  | n + 1 => s.byteAt a :: s.bytesAt (a + 1) n

/-- BUF with a byte sequence stored from offset `a` on. -/
def State.withBytes (s : State) (a : Nat) (bs : List Byte) : State := { s with buf := bufSetBytes s.buf a bs }

/-- `MemRead(a, n)` of a command, continued with its bytes; the guarantee of 00_scope.md R12 is checked. -/
def State.reading (s : State) (a n : Nat) (k : List Byte → Result) : Result :=
  if s.inBuf a n then k (s.bytesAt a n) else .fault (.outsideBuf a n)

/-- `MemWrite(a, |bs|, bs)` of a command, continued with the state after it; the guarantee of 00_scope.md R12 is checked. -/
def State.storing (s : State) (a : Nat) (bs : List Byte) (k : State → Result) : Result :=
  if s.inBuf a bs.length then k (s.withBytes a bs) else .fault (.outsideBuf a bs.length)

/-- `n` fresh draws of a byte, from draw `d` on (70_reset_and_hazards.md R231). -/
def freeBytes (d : Nat) : Nat → List Byte
  | 0 => []
  | n + 1 => Config.freeByte d :: freeBytes (d + 1) n

/-! CSRs. -/

/-- The byte offset of a CSR (10_state.md R22). -/
def Csr.offset : Csr → Nat
  | .id => 0x00 | .ctrl => 0x04 | .status => 0x08 | .cmd => 0x0C | .intStatus => 0x10 | .intEnable => 0x14
  | .src => 0x18 | .len => 0x1C | .dst => 0x20 | .type => 0x24 | .crcState => 0x28
  | .crcResult => 0x2C | .chunkLen => 0x30 | .chunkCrc => 0x34 | .ptype => 0x38 | .typeFlags => 0x3C
  | .next => 0x40 | .chunkCount => 0x44 | .errOff => 0x48 | .config => 0x4C | .features => 0x50

/-- The CSR at a byte offset; none at a reserved offset (10_state.md R22). -/
def csrAt (off : Nat) : Option Csr :=
  match off with
  | 0x00 => some .id | 0x04 => some .ctrl | 0x08 => some .status | 0x0C => some .cmd
  | 0x10 => some .intStatus | 0x14 => some .intEnable | 0x18 => some .src | 0x1C => some .len
  | 0x20 => some .dst | 0x24 => some .type | 0x28 => some .crcState | 0x2C => some .crcResult
  | 0x30 => some .chunkLen | 0x34 => some .chunkCrc | 0x38 => some .ptype | 0x3C => some .typeFlags
  | 0x40 => some .next | 0x44 => some .chunkCount | 0x48 => some .errOff | 0x4C => some .config
  | 0x50 => some .features
  | _ => none

/-- `x[NAME]` (00_scope.md R11): the defined value of a CSR (10_state.md R24 to R45). CTRL and CMD read as 0 (R25, R27). -/
def State.readCsr (s : State) : Csr → Word
  | .id => 0x504E4743#32
  | .ctrl => 0
  | .status => s.status
  | .cmd => 0
  | .intStatus => s.intStatus
  | .intEnable => s.intEnable
  | .src => s.src
  | .len => s.len
  | .dst => s.dst
  | .type => s.type
  | .crcState => s.crcState
  | .crcResult => s.crcResult
  | .chunkLen => s.chunkLen
  | .chunkCrc => s.chunkCrc
  | .ptype => s.ptype
  | .typeFlags => s.typeFlags
  | .next => s.next
  | .chunkCount => s.chunkCount
  | .errOff => s.errOff
  | .config => word32 s.params.bufBytes
  | .features => featuresWord s.params

/-- The state with other moves to come (log 1). -/
def State.withMoves (s : State) (ms : List Move) : State := { s with moves := ms }

/-! The command lifecycle. -/

/-- Acceptance of a command word (10_state.md R52): nothing else changes. -/
def State.accept (s : State) (w : Word) : State :=
  { s with seq := .busy w, status := statusAccepted s.status w }

/-- Completion with an error kind (60_exceptions.md R210). -/
def State.complete (s : State) (e : ErrCode) : State :=
  { s with seq := .idle, status := statusCompleted s.status e, intStatus := intCompleted s.intStatus e }

/-- A command that ends without error. -/
def State.finish (s : State) : Result := .next (s.complete .none)

/-- `raise E()`: completion with the code of E, no offset (00_scope.md R13). -/
def State.raise (s : State) (e : ErrCode) : Result := .next (s.complete e)

/-- `raise E(off)`: ERR_OFF first, then completion (00_scope.md R13, 60_exceptions.md R210). -/
def State.raiseAt (s : State) (e : ErrCode) (off : Nat) : Result :=
  .next ({ s with errOff := word32 off }.complete e)

end Sys2Proof.Machine
end

