-- ==== Sys2Proof/Machine/ChunkType.lean ====
section
/-! DEFINITION. The chunk-type classifier commands (40_chunk_type.md). -/

namespace Sys2Proof.Machine

open Sys2Proof

/-- TYPE_CLASSIFY (40_chunk_type.md R101). -/
def execTypeClassify (s : State) : Result :=
  State.finish { s with typeFlags := classify s.params s.type }

/-- TYPE_CHECK_TEXT (40_chunk_type.md R102). -/
def execTypeCheckText (s : State) : Result :=
  if isAlphaType s.type then State.finish { s with typeFlags := classify s.params s.type }
  else s.raise .nonAlphabetic

end Sys2Proof.Machine
end

