-- ==== Sys2Proof/Machine/Control.lean ====
section
/-! DEFINITION. The control commands (44_control.md). -/

namespace Sys2Proof.Machine

open Sys2Proof

/-- NOP: no effect besides completion (44_control.md R180). -/
def execNop (s : State) : Result := s.finish

/-- BAD_COMMAND: every illegal word; no operand is read (44_control.md R181). -/
def execBadCommand (_w : Word) (s : State) : Result := s.raise .badCommand

end Sys2Proof.Machine
end

