-- ==== Sys2Proof/Machine/Crc.lean ====
section
/-! DEFINITION. The CRC-32 function and the CRC engine commands (41_crc.md). -/

namespace Sys2Proof.Machine

open Sys2Proof

/-- One of the eight shifts of `crc_byte` (41_crc.md R121). -/
def crcBit (c : Word) : Word :=
  if c.getLsbD 0 then (c >>> 1) ^^^ 0xEDB88320#32 else c >>> 1

/-- `crc_byte(c, b)` (41_crc.md R121). -/
def crcByte (c : Word) (b : Byte) : Word :=
  crcBit (crcBit (crcBit (crcBit (crcBit (crcBit (crcBit (crcBit (c ^^^ b.setWidth 32))))))))

/-- `crc_fold(c, s)` (41_crc.md R121). -/
def crcFold : Word → List Byte → Word
  | c, [] => c
  | c, b :: bs => crcFold (crcByte c b) bs

/-- `crc32(s)` (41_crc.md R120). -/
def crc32 (bs : List Byte) : Word := crcFold 0xFFFFFFFF#32 bs ^^^ 0xFFFFFFFF#32

/-- `crcChunk(t, s)`: the type bytes, then the data (41_crc.md R127). -/
def crcChunk (t : Word) (data : List Byte) : Word := crc32 (bytes32 t ++ data)

/-- CRC_INIT (41_crc.md R122). -/
def execCrcInit (s : State) : Result :=
  State.finish { s with crcState := 0xFFFFFFFF#32 }

/-- CRC_UPDATE (41_crc.md R123). -/
def execCrcUpdate (s : State) : Result :=
  if s.inBuf s.src.toNat s.len.toNat then
    s.reading s.src.toNat s.len.toNat fun data =>
      State.finish { s with crcState := crcFold s.crcState data }
  else s.raise .range

/-- CRC_FINAL (41_crc.md R124). -/
def execCrcFinal (s : State) : Result :=
  State.finish { s with crcResult := s.crcState ^^^ 0xFFFFFFFF#32 }

/-- CHUNK_NEW (41_crc.md R125). -/
def execChunkNew (s : State) : Result :=
  if s.inBuf s.src.toNat s.len.toNat then
    s.reading s.src.toNat s.len.toNat fun data =>
      State.finish { s with chunkLen := s.len, crcResult := crcChunk s.type data }
  else s.raise .range

end Sys2Proof.Machine
end

