-- ==== Sys2Proof/Machine/Chunk.lean ====
section
/-! DEFINITION. The chunk framer commands (42_chunk.md). -/

namespace Sys2Proof.Machine

open Sys2Proof

/-- What `frame` returns (42_chunk.md R140). -/
inductive Framed where
  | truncated
  /-- `Rec(L, t, stored, computed)`. -/
  | record (len type stored computed : Word)
  deriving DecidableEq, Repr

/-- `frame(r, avail)`: the record at BUF offset `r`, with `avail` bytes available (42_chunk.md R140). -/
def State.frame (s : State) (r avail : Nat) : Framed :=
  if avail < 4 then .truncated
  else if avail < recordSize (be32 (s.bytesAt r 4)).toNat then .truncated
  else
    .record (be32 (s.bytesAt r 4)) (be32 (s.bytesAt (r + 4) 4))
      (be32 (s.bytesAt (r + 8 + (be32 (s.bytesAt r 4)).toNat) 4))
      (crcChunk (be32 (s.bytesAt (r + 4) 4)) (s.bytesAt (r + 8) (be32 (s.bytesAt r 4)).toNat))

/-- `frame(r, avail)` of a command; the caller's guarantee r + avail <= P_BUF_BYTES is checked (42_chunk.md R140). -/
def State.framing (s : State) (r avail : Nat) (k : Framed → Result) : Result :=
  if s.inBuf r avail then k (s.frame r avail) else .fault (.outsideBuf r avail)

/-- The loads of CHUNK_PARSE from a record at offset `r` (42_chunk.md R141). -/
def State.loadRecord (s : State) (r : Nat) (len type stored computed : Word) : State :=
  { s with
    chunkLen := len
    ptype := type
    chunkCrc := stored
    crcResult := computed
    typeFlags := classify s.params type
    next := word32 (r + recordSize len.toNat) }

/-- CHUNK_PARSE (42_chunk.md R141); the loads stand on CRC_MISMATCH. -/
def execChunkParse (s : State) : Result :=
  if s.inBuf s.src.toNat s.len.toNat then
    s.framing s.src.toNat s.len.toNat fun
      | .truncated => s.raiseAt .truncated s.src.toNat
      | .record len type stored computed =>
        if computed = stored then (s.loadRecord s.src.toNat len type stored computed).finish
        else (s.loadRecord s.src.toNat len type stored computed).raiseAt .crcMismatch s.src.toNat
  else s.raise .range

/-- The bytes of a chunk record (30_encoding.md R87). CHUNK_SERIALIZE's four MemWrites are one write of these bytes:
they are adjacent, and their order is never observable (20_memory.md R75). -/
def recordBytes (type : Word) (data : List Byte) : List Byte :=
  bytes32 (word32 data.length) ++ bytes32 type ++ data ++ bytes32 (crcChunk type data)

/-- Both ranges of CHUNK_SERIALIZE lie in BUF (60_exceptions.md R204). -/
abbrev State.serializeInBuf (s : State) : Prop :=
  s.inBuf s.src.toNat s.len.toNat ∧ s.inBuf s.dst.toNat (recordSize s.len.toNat)

/-- The source and destination of CHUNK_SERIALIZE share a byte (42_chunk.md R145, R146). -/
abbrev State.serializeOverlaps (s : State) : Prop :=
  overlaps s.src.toNat s.len.toNat s.dst.toNat (recordSize s.len.toNat)

/-- CHUNK_SERIALIZE (42_chunk.md R145). -/
def execChunkSerialize (s : State) : Result :=
  if s.serializeInBuf then
    if s.serializeOverlaps then s.raise .overlap
    else
      s.reading s.src.toNat s.len.toNat fun data =>
        s.storing s.dst.toNat (recordBytes s.type data) fun t =>
          State.finish { t with
            chunkLen := s.len
            crcResult := crcChunk s.type data
            next := word32 (s.dst.toNat + recordSize s.len.toNat) }
  else s.raise .range

end Sys2Proof.Machine
end

