-- ==== Sys2Proof/Machine/Stream.lean ====
section
/-! DEFINITION. The stream framer commands (43_stream.md). -/

namespace Sys2Proof.Machine

open Sys2Proof

/-- The signature checks SIG_CHECK and STREAM_PARSE share, after the range check, continued if they pass (43_stream.md R160, R164). -/
def State.checkingSig (s : State) (k : Result) : Result :=
  if s.len.toNat < 8 then s.raiseAt .truncated s.src.toNat
  else
    s.reading s.src.toNat 8 fun head =>
      if head = sig then k else s.raiseAt .badSignature s.src.toNat

/-- SIG_CHECK (43_stream.md R160). -/
def execSigCheck (s : State) : Result :=
  if s.inBuf s.src.toNat s.len.toNat then
    s.checkingSig (State.finish { s with next := word32 (s.src.toNat + 8) })
  else s.raise .range

/-- SIG_WRITE (43_stream.md R162). -/
def execSigWrite (s : State) : Result :=
  if s.inBuf s.dst.toNat 8 then
    s.storing s.dst.toNat sig fun t => State.finish { t with next := word32 (s.dst.toNat + 8) }
  else s.raise .range

/-- The loop of STREAM_PARSE from record offset `cur` to `fin`, with `count` records found (43_stream.md R164).
`fuel` bounds the rounds; fin - cur is enough, since a record has at least 12 bytes. -/
def State.walk (s : State) (fin : Nat) : (fuel cur count : Nat) → Result
  | 0, cur, count =>
    if cur < fin then .fault .walkUnfinished
    else State.finish { s with chunkCount := word32 count, next := word32 fin }
  | fuel + 1, cur, count =>
    if cur < fin then
      s.framing cur (fin - cur) fun
        | .truncated => s.raiseAt .truncated cur
        | .record len _ stored computed =>
          if computed = stored then s.walk fin fuel (cur + recordSize len.toNat) (count + 1)
          else s.raiseAt .crcMismatch cur
    else State.finish { s with chunkCount := word32 count, next := word32 fin }

/-- STREAM_PARSE (43_stream.md R164). -/
def execStreamParse (s : State) : Result :=
  if s.inBuf s.src.toNat s.len.toNat then
    s.checkingSig (s.walk (s.src.toNat + s.len.toNat) s.len.toNat (s.src.toNat + 8) 0)
  else s.raise .range

end Sys2Proof.Machine
end

