-- ==== Sys2Proof/Machine/Dispatch.lean ====
section
/-! DEFINITION. One arm per command: the completion step of a decoded command, its rule and its completion (10_state.md R53). -/

namespace Sys2Proof.Machine

open Sys2Proof

def exec (i : Instr) (s : State) : Host.Outcome State Fault Refusal :=
  match i with
  | .nop => Sys2Proof.Machine.execNop s
  | .crcInit => Sys2Proof.Machine.execCrcInit s
  | .crcUpdate => Sys2Proof.Machine.execCrcUpdate s
  | .crcFinal => Sys2Proof.Machine.execCrcFinal s
  | .chunkNew => Sys2Proof.Machine.execChunkNew s
  | .typeClassify => Sys2Proof.Machine.execTypeClassify s
  | .typeCheckText => Sys2Proof.Machine.execTypeCheckText s
  | .chunkParse => Sys2Proof.Machine.execChunkParse s
  | .chunkSerialize => Sys2Proof.Machine.execChunkSerialize s
  | .sigCheck => Sys2Proof.Machine.execSigCheck s
  | .sigWrite => Sys2Proof.Machine.execSigWrite s
  | .streamParse => Sys2Proof.Machine.execStreamParse s
  | .badCommand w => Sys2Proof.Machine.execBadCommand w s

end Sys2Proof.Machine
end

