-- ==== Sys2Proof/WellFormed.lean ====
section
/-! DEFINITION. Which terms of `Instr` stand for a command word: an illegal-word term must carry an illegal word (30_encoding.md R84). -/

namespace Sys2Proof

/-- The defined command words: opcode of 30_encoding.md R83 in bits 7:0, reserved bits 31:8 zero (R81). -/
def definedWords : List Word :=
  [0x00#32, 0x01#32, 0x02#32, 0x03#32, 0x04#32, 0x10#32, 0x11#32, 0x20#32, 0x21#32, 0x30#32, 0x31#32, 0x32#32]

/-- A term stands for exactly one command word: `badCommand w` only for a word R84 calls illegal. -/
def Instr.wellFormed : Instr → Bool
  | .badCommand w => !definedWords.contains w
  | .nop | .crcInit | .crcUpdate | .crcFinal | .chunkNew | .typeClassify | .typeCheckText
  | .chunkParse | .chunkSerialize | .sigCheck | .sigWrite | .streamParse => true

end Sys2Proof
end

