-- ==== Sys2Proof/Decode.lean ====
section
/-! DEFINITION. Decoding and encoding of command words, format C (30_encoding.md R80 to R86). -/

namespace Sys2Proof

/-- OPCODE, bits 7:0 of a command word (30_encoding.md R81). -/
def opcodeField (w : Word) : Byte := w.extractLsb' 0 8

/-- RSV, bits 31:8 of a command word (30_encoding.md R81). -/
def reservedField (w : Word) : BitVec 24 := w.extractLsb' 8 24

/-- The case of 30_encoding.md R82 over OPCODE, for the word `w` it stands in. -/
def decodeOpcode (w : Word) (op : Byte) : Instr :=
  match op.toNat with
  | 0x00 => .nop
  | 0x01 => .crcInit
  | 0x02 => .crcUpdate
  | 0x03 => .crcFinal
  | 0x04 => .chunkNew
  | 0x10 => .typeClassify
  | 0x11 => .typeCheckText
  | 0x20 => .chunkParse
  | 0x21 => .chunkSerialize
  | 0x30 => .sigCheck
  | 0x31 => .sigWrite
  | 0x32 => .streamParse
  | _ => .badCommand w

/-- Decode of a command word at completion: total, every word selects one outcome (30_encoding.md R82). -/
def decodeCommand (w : Word) : Instr :=
  if reservedField w = 0 then decodeOpcode w (opcodeField w) else .badCommand w

/-- The command word of a command: the opcode of 30_encoding.md R83, zero-extended (R91); an illegal word is itself. -/
def encodeCommand : Instr → Word
  | .nop => 0x00000000#32
  | .crcInit => 0x00000001#32
  | .crcUpdate => 0x00000002#32
  | .crcFinal => 0x00000003#32
  | .chunkNew => 0x00000004#32
  | .typeClassify => 0x00000010#32
  | .typeCheckText => 0x00000011#32
  | .chunkParse => 0x00000020#32
  | .chunkSerialize => 0x00000021#32
  | .sigCheck => 0x00000030#32
  | .sigWrite => 0x00000031#32
  | .streamParse => 0x00000032#32
  | .badCommand w => w

/-- Why a string of bits is no command word. -/
inductive DecodeReject where
  /-- More than 32 bits: every command is one word of 32 bits (30_encoding.md R86). -/
  | notOneWord
  deriving DecidableEq, Repr

/-- The command word with `w` in its low `nbits` bits and zeros above. -/
def tableWord (nbits w : Nat) : Word := BitVec.ofNat 32 (w % 2 ^ nbits)

/-- Decode of `nbits` bits: at most one word, else rejected by name (30_encoding.md R86). -/
def decodeBits (nbits w : Nat) : Except DecodeReject Instr :=
  if nbits ≤ 32 then .ok (decodeCommand (tableWord nbits w)) else .error .notOneWord

/-- The command read from a word numbered as spec/opcode_table.json numbers it. -/
def decodeTableWord (nbits w : Nat) : Option Instr :=
  match decodeBits nbits w with
  | .ok i => some i
  | .error _ => none

end Sys2Proof
end

