-- ==== Sys2Proof/Machine/Bus.lean ====
section
/-! DEFINITION. The host's side: bus accesses to the two ports and soft reset (20_memory.md, 10_state.md R23, R54, R55, 70_reset_and_hazards.md R231). -/

namespace Sys2Proof.Machine

open Sys2Proof

/-! Soft reset. -/

/-- The BUF range a command stores to: the destination of CHUNK_SERIALIZE or SIG_WRITE whose checks pass
(70_reset_and_hazards.md R231, item 1). -/
def State.storeRange (s : State) : Instr → Option (Nat × Nat)
  | .chunkSerialize =>
    if s.serializeInBuf ∧ ¬ s.serializeOverlaps then some (s.dst.toNat, recordSize s.len.toNat) else none
  | .sigWrite => if s.inBuf s.dst.toNat 8 then some (s.dst.toNat, 8) else none
  | .nop | .crcInit | .crcUpdate | .crcFinal | .chunkNew | .typeClassify | .typeCheckText
  | .chunkParse | .sigCheck | .streamParse | .badCommand _ => none

/-- The bytes of the aborted destination are fresh draws (70_reset_and_hazards.md R231, item 1). -/
def State.abort (s : State) : State :=
  match s.seq with
  | .idle => s
  | .busy w =>
    match s.storeRange (decodeCommand w) with
    | none => s
    | some (d, n) => { s.withBytes d (freeBytes s.draws n) with draws := s.draws + n }

/-- Every CSR and SEQ at its reset value; BUF, the parameters and the host's side stay (70_reset_and_hazards.md R231, items 2 and 3). -/
def State.resetCsrs (s : State) : State :=
  { State.powerOn s.params with buf := s.buf, draws := s.draws, moves := s.moves, replies := s.replies }

/-- Soft reset (70_reset_and_hazards.md R231). -/
def State.softReset (s : State) : State := s.abort.resetCsrs

/-! The CSR port. -/

/-- The registers whose read while BUSY is unspecified (10_state.md R54). -/
def Csr.unspecifiedWhileBusy : Csr → Bool
  | .crcState | .crcResult | .chunkLen | .chunkCrc | .ptype | .typeFlags | .next | .chunkCount | .errOff => true
  | .id | .ctrl | .status | .cmd | .intStatus | .intEnable | .src | .len | .dst | .type | .config | .features => false

/-- A host read of a CSR: its defined value, or a fresh draw (10_state.md R54). -/
def State.hostReadCsr (s : State) (r : Csr) : State × Response :=
  if s.seq.isBusy && r.unspecifiedWhileBusy then
    ({ s with draws := s.draws + 1 }, .word (Config.freeWord s.draws))
  else (s, .word (s.readCsr r))

/-- A write that is dropped while BUSY sets OVR; otherwise it takes effect (10_state.md R55). -/
def State.unlessBusy (s : State) (t : State) : State :=
  if s.seq.isBusy then { s with intStatus := s.intStatus ||| intOvr } else t

/-- A host write of a CSR, by its access type (10_state.md R23, R25 to R34, R52, R55). -/
def State.hostWriteCsr (s : State) (r : Csr) (d : Word) : State :=
  match r with
  | .ctrl => if d.getLsbD 0 then s.softReset else s
  | .cmd => s.unlessBusy (s.accept d)
  | .intStatus => { s with intStatus := s.intStatus &&& ~~~d }
  | .intEnable => { s with intEnable := d &&& intDefined }
  | .src => s.unlessBusy { s with src := d }
  | .len => s.unlessBusy { s with len := d }
  | .dst => s.unlessBusy { s with dst := d }
  | .type => s.unlessBusy { s with type := d }
  | .crcState => s.unlessBusy { s with crcState := d }
  | .id | .status | .crcResult | .chunkLen | .chunkCrc | .ptype | .typeFlags | .next | .chunkCount | .errOff
  | .config | .features => s

/-! Accesses. -/

/-- BUSERR: no state of the block changes; a read's data is a fresh draw (20_memory.md R68). -/
def State.busError (s : State) : Dir → State × Response
  | .read => ({ s with draws := s.draws + 1 }, .busErrData (Config.freeWord s.draws))
  | .write _ => (s, .busErr)

/-- The legal accesses of the CSR port (20_memory.md R63). -/
abbrev csrLegal (off width : Nat) : Prop := width = 4 ∧ off % 4 = 0 ∧ off < 0x100

/-- An access on the CSR port; reserved offsets are RAZ/WI (20_memory.md R63, 10_state.md R23). -/
def State.csrAccess (s : State) (off width : Nat) (dir : Dir) : State × Response :=
  if csrLegal off width then
    match csrAt off, dir with
    | some r, .read => s.hostReadCsr r
    | some r, .write d => (s.hostWriteCsr r d, .written)
    | none, .read => (s, .word 0)
    | none, .write _ => (s, .written)
  else s.busError dir

/-- The legal accesses of the BUF port while IDLE (20_memory.md R64). -/
abbrev State.bufLegal (s : State) (off width : Nat) : Prop :=
  (width = 1 ∧ s.inBuf off 1) ∨ (width = 4 ∧ off % 4 = 0 ∧ s.inBuf off 4)

/-- A legal read of the BUF port, with big-endian lanes (20_memory.md R64, R66). -/
def State.bufRead (s : State) (off width : Nat) : Response :=
  if width = 1 then .byte (s.byteAt off) else .word (be32 (s.bytesAt off 4))

/-- A legal write of the BUF port: data bits 7:0, or four big-endian lanes (20_memory.md R64, R66). -/
def State.bufWrite (s : State) (off width : Nat) (d : Word) : State :=
  if width = 1 then s.withBytes off [d.extractLsb' 0 8] else s.withBytes off (bytes32 d)

/-- An access on the BUF port (20_memory.md R64, R65). -/
def State.bufAccess (s : State) (off width : Nat) (dir : Dir) : State × Response :=
  if ¬ s.seq.isBusy ∧ s.bufLegal off width then
    match dir with
    | .read => (s, s.bufRead off width)
    | .write d => (s.bufWrite off width d, .written)
  else s.busError dir

/-- One host access, complete before its response (20_memory.md R60, R70, R73). -/
def State.access (s : State) (a : Access) : State × Response :=
  match a.port with
  | .csr => s.csrAccess a.offset a.width a.dir
  | .buf => s.bufAccess a.offset a.width a.dir

/-- One host access, its response handed to the host. -/
def State.perform (s : State) (a : Access) : State :=
  { (s.access a).1 with replies := (s.access a).2 :: (s.access a).1.replies }

/-- The port and offset a host bus address reaches: the CSR window, or the BUF window (00_scope.md R7, 20_memory.md R60, R71). -/
def routeAddress (p : Params) (addr : Nat) : Option (Port × Nat) :=
  if p.csrBase ≤ addr ∧ addr < p.csrBase + 0x100 then some (.csr, addr - p.csrBase)
  else if p.bufBase ≤ addr ∧ addr < p.bufBase + p.bufBytes then some (.buf, addr - p.bufBase)
  else none

end Sys2Proof.Machine
end

