-- ==== Sys2Proof/Machine/Program.lean ====
section
/-! DEFINITION. Host programs: the notation of 30_encoding.md R90 and its pseudo-instructions R91, as lists of moves. -/

namespace Sys2Proof.Machine

open Sys2Proof

/-- `csrw NAME, v` (30_encoding.md R90). -/
def csrw (r : Csr) (v : Word) : Access := { port := .csr, offset := r.offset, width := 4, dir := .write v }

/-- `csrr NAME` (30_encoding.md R90). -/
def csrr (r : Csr) : Access := { port := .csr, offset := r.offset, width := 4, dir := .read }

/-- `bw8 a, b` (30_encoding.md R90). -/
def bw8 (a : Nat) (b : Byte) : Access := { port := .buf, offset := a, width := 1, dir := .write (b.setWidth 32) }

/-- `bw32 a, w` (30_encoding.md R90). -/
def bw32 (a : Nat) (w : Word) : Access := { port := .buf, offset := a, width := 4, dir := .write w }

/-- `br8 a` (30_encoding.md R90). -/
def br8 (a : Nat) : Access := { port := .buf, offset := a, width := 1, dir := .read }

/-- `br32 a` (30_encoding.md R90). -/
def br32 (a : Nat) : Access := { port := .buf, offset := a, width := 4, dir := .read }

/-- `cmd OP` (30_encoding.md R91). -/
def cmd (i : Instr) : Access := csrw .cmd (encodeCommand i)

/-- `run OP` (30_encoding.md R91); `polls` is how many reads of its `wait` may see DONE = 0. -/
def runCommand (i : Instr) (polls : Nat) : List Move :=
  [.host (csrw .intStatus 0x00000007#32), .host (cmd i), .wait polls]

/-- `bfill a, bytes` (30_encoding.md R91). -/
def bfill : Nat → List Byte → List Move
  | _, [] => []
  | a, b :: bs => .host (bw8 a b) :: bfill (a + 1) bs

/-- `set NAME=v, ...` (30_encoding.md R91). -/
def setCsrs : List (Csr × Word) → List Move
  | [] => []
  | (r, v) :: rest => .host (csrw r v) :: setCsrs rest

end Sys2Proof.Machine
end

