-- ==== Sys2Proof/Machine/Sequencer.lean ====
section
/-! DEFINITION. Who moves next, and how far a step goes before a command's completion (10_state.md R53, 60_exceptions.md R214, 70_reset_and_hazards.md R240; log 1). -/

namespace Sys2Proof.Machine

open Sys2Proof

/-- What a step does: the completion of a command word at a state, or a move that completes nothing. -/
inductive Turn where
  | completes (w : Word) (s : State)
  | moved (s : State)
  deriving DecidableEq, Repr

/-- The block's own move: completion while BUSY, nothing while IDLE (10_state.md R53, 70_reset_and_hazards.md R233). -/
def State.blockTurn (s : State) : Turn :=
  match s.seq with
  | .busy w => .completes w s
  | .idle => .moved s

/-- A host access in the same step as a completion: the access sees BUSY, the completion follows, so a set bit wins over a
clear, OVR and DONE are both set, and a soft reset leaves nothing to complete (60_exceptions.md R214, 10_state.md R28). -/
def State.bothTurn (s : State) (a : Access) : Turn :=
  match s.seq with
  | .busy _ => (s.perform a).blockTurn
  | .idle => .moved (s.perform a)

/-- One round of `wait` with the moves `rest` after it: a read of INT_STATUS that ends it when DONE is 1; otherwise another
read, or the block's completion once no more reads come before it (30_encoding.md R91, 70_reset_and_hazards.md R240). -/
def State.waitTurn (s : State) (polls : Nat) (rest : List Move) : Turn :=
  if s.intStatus.getLsbD 0 then .moved ((s.withMoves rest).perform (csrr .intStatus))
  else
    match s.seq, polls with
    | .busy w, 0 => .completes w s
    | .busy _, polls + 1 => .moved ((s.withMoves (.wait polls :: rest)).perform (csrr .intStatus))
    | .idle, _ => .moved (s.perform (csrr .intStatus))

/-- What the next step does, read from the moves to come (log 1). -/
def State.turn (s : State) : Turn :=
  match s.moves with
  | [] => s.blockTurn
  | .block :: rest => (s.withMoves rest).blockTurn
  | .host a :: rest => .moved ((s.withMoves rest).perform a)
  | .both a :: rest => (s.withMoves rest).bothTurn a
  | .wait polls :: rest => s.waitTurn polls rest

/-- The state in which the very next step completes the command word `w`: accepted (10_state.md R52), the block to move. -/
def State.placeCommand (s : State) (w : Word) : State :=
  (s.accept w).withMoves (.block :: s.moves)

end Sys2Proof.Machine
end

