-- ==== Sys2Proof/Machine/Step.lean ====
section
/-! DEFINITION. One step of the system: a host move, or the completion of the decoded command (10_state.md R53). -/

namespace Sys2Proof.Machine

open Sys2Proof

/-- One step. A completion decodes the accepted word and runs it (10_state.md R53, 30_encoding.md R82). -/
def step (s : State) : Host.Outcome State Fault Refusal :=
  match s.turn with
  | .completes w t => exec (decodeCommand w) t
  | .moved t => .next t

/-- `s` with the command word `w` (low `nbits` bits, zeros above) accepted and the block to move next (log 6). -/
def State.withFetchWord (s : State) (nbits w : Nat) : State := s.placeCommand (tableWord nbits w)

end Sys2Proof.Machine
end

