-- ==== Sys2Proof/Safety.lean ====
section
/-! DEFINITION. The terms claims use: the invariant of the machine, what each command may write and raise, and the records of a stream. -/

namespace Sys2Proof.Machine

open Sys2Proof

/-- The invariant of the machine: what the spec says of every reachable state. -/
structure State.Inv (s : State) : Prop where
  /-- The parameters meet 00_scope.md R7 and 20_memory.md R71. -/
  params : s.params.wf
  /-- BUF is in its canonical form (log 3). -/
  bufSorted : Memory.wf s.buf
  /-- No byte lies past BUF (00_scope.md R12, 20_memory.md R61). -/
  bufInside : ∀ c ∈ s.buf, c.1 < s.params.bufBytes
  /-- STATUS.BUSY is 1 iff SEQ = BUSY (10_state.md R26). -/
  busyBit : statusBusy s.status = s.seq.isBusy
  /-- STATUS.ERR is 1 iff ERR_CODE is not 0 (10_state.md R26). -/
  errBit : statusErr s.status = (statusErrCode s.status != 0)
  /-- ERR_CODE is a code of 60_exceptions.md R200, never 3 (R201) and never 9 to 15 (93_implementation_defined.md U7). -/
  errCode : ∃ e : ErrCode, e ≠ .unknownLength ∧ statusErrCode s.status = e.code
  /-- While BUSY, LAST_OP is the opcode of the accepted word (10_state.md R52). -/
  lastOp : ∀ w, s.seq = .busy w → statusLastOp s.status = opcodeField w
  /-- STATUS bits 7:2, 15:12 and 31:24 are 0 (10_state.md R26). -/
  statusReserved : s.status &&& 0xFF00F0FC#32 = 0
  /-- INT_STATUS bits 31:3 are 0 (10_state.md R28). -/
  intStatusReserved : s.intStatus &&& 0xFFFFFFF8#32 = 0
  /-- INT_ENABLE bits 31:3 are 0 (10_state.md R29). -/
  intEnableReserved : s.intEnable &&& 0xFFFFFFF8#32 = 0
  /-- TYPE_FLAGS is its reset value or the classification of some type (10_state.md R39). -/
  typeFlags : s.typeFlags = 0 ∨ ∃ t, s.typeFlags = classify s.params t
  /-- NEXT is at most P_BUF_BYTES (10_state.md R41). -/
  next : s.next.toNat ≤ s.params.bufBytes
  /-- CHUNK_COUNT is at most floor((P_BUF_BYTES - 8) / 12) (10_state.md R42). -/
  chunkCount : s.chunkCount.toNat ≤ (s.params.bufBytes - 8) / 12
  /-- ERR_OFF is an offset in or just past BUF (10_state.md R43, 60_exceptions.md R204). -/
  errOff : s.errOff.toNat ≤ s.params.bufBytes

/-- The error kinds a command can complete with, NONE included (60_exceptions.md R200). -/
def possibleErrors : Instr → List ErrCode
  | .nop | .crcInit | .crcFinal | .typeClassify => [.none]
  | .crcUpdate | .chunkNew | .sigWrite => [.none, .range]
  | .typeCheckText => [.none, .nonAlphabetic]
  | .chunkParse => [.none, .range, .truncated, .crcMismatch]
  | .chunkSerialize => [.none, .range, .overlap]
  | .sigCheck => [.none, .range, .truncated, .badSignature]
  | .streamParse => [.none, .range, .truncated, .badSignature, .crcMismatch]
  | .badCommand _ => [.badCommand]

/-- The ranges (offset, byte count) a command checks (60_exceptions.md R204). -/
def State.checkedRanges (s : State) : Instr → List (Nat × Nat)
  | .crcUpdate | .chunkNew | .chunkParse | .sigCheck | .streamParse => [(s.src.toNat, s.len.toNat)]
  | .chunkSerialize => [(s.src.toNat, s.len.toNat), (s.dst.toNat, s.len.toNat + 12)]
  | .sigWrite => [(s.dst.toNat, 8)]
  | .nop | .crcInit | .crcFinal | .typeClassify | .typeCheckText | .badCommand _ => []

/-- The result registers a command may write, on success or on an error (30_encoding.md R83, 10_state.md R43). -/
def resultsWritten : Instr → List Csr
  | .nop | .badCommand _ => []
  | .crcInit | .crcUpdate => [.crcState]
  | .crcFinal => [.crcResult]
  | .chunkNew => [.chunkLen, .crcResult]
  | .typeClassify | .typeCheckText => [.typeFlags]
  | .chunkParse => [.chunkLen, .ptype, .chunkCrc, .crcResult, .typeFlags, .next, .errOff]
  | .chunkSerialize => [.chunkLen, .crcResult, .next]
  | .sigCheck => [.next, .errOff]
  | .sigWrite => [.next]
  | .streamParse => [.chunkCount, .next, .errOff]

/-- The CSRs a command may write: its result registers, and STATUS and INT_STATUS at completion (30_encoding.md R83). -/
def csrsWritten (i : Instr) : List Csr := .status :: .intStatus :: resultsWritten i

/-- `s.Walks fin cur k stop`: `k` records, each framed before `fin` with a matching CRC, lead from offset `cur` to offset `stop`
(43_stream.md R164). -/
inductive State.Walks (s : State) (fin : Nat) : Nat → Nat → Nat → Prop where
  | here (cur : Nat) : s.Walks fin cur 0 cur
  | record {cur k stop : Nat} {len type crc : Word} (before : cur < fin)
      (framed : s.frame cur (fin - cur) = .record len type crc crc)
      (rest : s.Walks fin (cur + recordSize len.toNat) k stop) : s.Walks fin cur (k + 1) stop

/-- An upper bound on the steps before a pending command completes, read from the moves to come (70_reset_and_hazards.md R240). -/
def stepBudget : List Move → Nat
  | [] => 1
  | .wait polls :: rest => polls + 1 + stepBudget rest
  | .host _ :: rest | .block :: rest | .both _ :: rest => 1 + stepBudget rest

/-- The address of a soft reset: a legal CTRL write with SRST = 1 (10_state.md R25). -/
def Access.isSoftReset (a : Access) : Bool :=
  match a.port, a.dir with
  | .csr, .write d => a.offset == 4 && a.width == 4 && d.getLsbD 0
  | .csr, .read | .buf, .read | .buf, .write _ => false

end Sys2Proof.Machine
end

