-- ==== Sys2Proof/Certificates/Slice0/Obligations.lean ====
section
/-! DEFINITION. The statements about the machine, from the numbered rules of spec/. Each docstring names the rule it formalises. -/

open Sys2Proof Sys2Proof.Machine

/-! ## Decoding -/

/-- 30_encoding.md R82, R83: decoding the word of a well-formed command gives the command back. -/
def Obligations.DecodeOfEncode : Prop :=
  ∀ i : Instr, i.wellFormed = true → decodeCommand (encodeCommand i) = i

/-- 30_encoding.md R82: every word has one meaning, a well-formed command that encodes as the word. -/
def Obligations.EncodeOfDecode : Prop :=
  ∀ w : Word, (decodeCommand w).wellFormed = true ∧ encodeCommand (decodeCommand w) = w

/-- 30_encoding.md R84: the illegal words are those with a reserved bit set or an opcode outside R83. -/
def Obligations.IllegalWordsDecodeToBadCommand : Prop :=
  ∀ w : Word, decodeCommand w = .badCommand w ↔
    (w.toNat / 2 ^ 8 ≠ 0 ∨
      (0x05 ≤ w.toNat % 2 ^ 8 ∧ w.toNat % 2 ^ 8 ≤ 0x0F) ∨ (0x12 ≤ w.toNat % 2 ^ 8 ∧ w.toNat % 2 ^ 8 ≤ 0x1F) ∨
      (0x22 ≤ w.toNat % 2 ^ 8 ∧ w.toNat % 2 ^ 8 ≤ 0x2F) ∨ 0x33 ≤ w.toNat % 2 ^ 8)

/-- 30_encoding.md R82: the twelve defined words, and words next to them (95_test_vectors.md V-K2 to V-K5). -/
def Obligations.TableWordsDecode : Prop :=
  decodeCommand 0x00#32 = .nop ∧ decodeCommand 0x01#32 = .crcInit ∧ decodeCommand 0x02#32 = .crcUpdate ∧
  decodeCommand 0x03#32 = .crcFinal ∧ decodeCommand 0x04#32 = .chunkNew ∧
  decodeCommand 0x10#32 = .typeClassify ∧ decodeCommand 0x11#32 = .typeCheckText ∧
  decodeCommand 0x20#32 = .chunkParse ∧ decodeCommand 0x21#32 = .chunkSerialize ∧
  decodeCommand 0x30#32 = .sigCheck ∧ decodeCommand 0x31#32 = .sigWrite ∧ decodeCommand 0x32#32 = .streamParse ∧
  decodeCommand 0x05#32 = .badCommand 0x05#32 ∧ decodeCommand 0x12#32 = .badCommand 0x12#32 ∧
  decodeCommand 0xFF#32 = .badCommand 0xFF#32 ∧ decodeCommand 0x100#32 = .badCommand 0x100#32

/-! ## Reset and the invariant -/

/-- 70_reset_and_hazards.md R230: the state after power-on reset, for every choice of the parameters. That an unwritten byte
reads as `Config.powerOnByte` of its offset, a free value, is the model's choice (log 3). -/
def Obligations.PowerOnValues : Prop :=
  ∀ p : Params,
    (State.powerOn p).seq = .idle ∧
    (State.powerOn p).readCsr .id = 0x504E4743#32 ∧ (State.powerOn p).readCsr .crcState = 0xFFFFFFFF#32 ∧
    (State.powerOn p).readCsr .config = BitVec.ofNat 32 p.bufBytes ∧
    (State.powerOn p).readCsr .features = (if p.validIncludesReserved = true then 1 else 0) ∧
    (∀ r : Csr, r ∉ [Csr.id, .crcState, .config, .features] → (State.powerOn p).readCsr r = 0) ∧
    (∀ off, off % 4 = 0 → 0x54 ≤ off → off < 0x100 →
      ((State.powerOn p).access { port := .csr, offset := off, width := 4, dir := .read }).2 = .word 0) ∧
    (State.powerOn p).irq = false ∧
    (∀ a, (State.powerOn p).byteAt a = Config.powerOnByte a)

/-- 70_reset_and_hazards.md R230: the invariant holds after power-on reset, for every legal choice of the parameters. -/
def Obligations.PowerOnMeetsInvariant : Prop :=
  ∀ p : Params, p.wf → (State.powerOn p).Inv

/-- Every step keeps the invariant (10_state.md R26, R28, R29, R39, R41 to R43; 60_exceptions.md R200, R201; 00_scope.md R12).
That BUF keeps its offsets strictly rising is the model's own form of memory (log 3). -/
def Obligations.StepKeepsInvariant : Prop :=
  ∀ s t : State, s.Inv → step s = .next t → t.Inv

/-! ## Steps and completion -/

/-- 60_exceptions.md R208, 00_scope.md R12, 43_stream.md R164: no step of any state stops. No access leaves BUF, no walk is left unfinished. -/
def Obligations.EveryStepAnswers : Prop :=
  ∀ s : State, ∃ t, step s = .next t

/-- 60_exceptions.md R200, R201, R208, R210: every command completes, with one of its own errors or none, never code 3. -/
def Obligations.CommandsCompleteWithTheirErrors : Prop :=
  ∀ (i : Instr) (s : State), ∃ t e, exec i s = .next t ∧ e ∈ possibleErrors i ∧
    t.seq = .idle ∧ statusBusy t.status = false ∧ statusErrCode t.status = e.code ∧ statusErr t.status = (e.code != 0) ∧
    t.intStatus.getLsbD 0 = true ∧ (e.code ≠ 0 → t.intStatus.getLsbD 1 = true) ∧ statusErrCode t.status ≠ 3

/-- 60_exceptions.md R210: completion with an error kind, and raising an error at an offset. -/
def Obligations.CompletionSetsStatusAndDone : Prop :=
  ∀ (s : State) (e : ErrCode) (off : Nat),
    s.raiseAt e off = .next ({ s with errOff := BitVec.ofNat 32 off }.complete e) ∧
    s.complete e = { s with seq := .idle, status := (s.complete e).status, intStatus := (s.complete e).intStatus } ∧
    statusErrCode (s.complete e).status = e.code ∧ statusErr (s.complete e).status = (e.code != 0) ∧
    statusBusy (s.complete e).status = false ∧ statusLastOp (s.complete e).status = statusLastOp s.status ∧
    (s.complete e).status &&& 0xFF00F0FC#32 = s.status &&& 0xFF00F0FC#32 ∧
    (s.complete e).intStatus = s.intStatus ||| (if e.code = 0 then 0x1#32 else 0x3#32)

/-- 10_state.md R52: a CMD write while IDLE is accepted, whatever the word; nothing but SEQ, BUSY and LAST_OP changes. -/
def Obligations.AcceptanceOfCommand : Prop :=
  ∀ (s : State) (w : Word), s.seq = .idle → ∃ st,
    s.access (csrw .cmd w) = ({ s with seq := .busy w, status := st }, .written) ∧
    statusBusy st = true ∧ statusLastOp st = opcodeField w ∧
    statusErr st = statusErr s.status ∧ statusErrCode st = statusErrCode s.status ∧
    st &&& 0xFF00F0FC#32 = s.status &&& 0xFF00F0FC#32

/-- 10_state.md R53: while BUSY, a step in which the block moves is the decoded command's; an IDLE block with no move to come waits
(70_reset_and_hazards.md R233); the host's form of a placed word runs it as the very next step. The moves are the model's own (log 1, log 6). -/
def Obligations.StepRunsDecodedCommand : Prop :=
  ∀ (s : State) (w : Word) (rest : List Move),
    (s.seq = .busy w → s.moves = [] → step s = exec (decodeCommand w) s) ∧
    (s.seq = .busy w → s.moves = .block :: rest → step s = exec (decodeCommand w) (s.withMoves rest)) ∧
    (s.seq = .busy w → s.intStatus.getLsbD 0 = false → s.moves = .wait 0 :: rest → step s = exec (decodeCommand w) s) ∧
    (s.seq = .idle → s.moves = [] → step s = .next s) ∧
    (∀ nbits n, step (s.withFetchWord nbits n) =
      exec (decodeCommand (tableWord nbits n)) (s.accept (tableWord nbits n)))

/-- 20_memory.md R60, R73: a host move performs one access and hands its response to the host, oldest move first.
The moves and the replies are the model's own (log 1). -/
def Obligations.HostAccessStep : Prop :=
  ∀ (s : State) (a : Access) (rest : List Move), s.moves = .host a :: rest → ∃ t r,
    (s.withMoves rest).access a = (t, r) ∧ step s = .next { t with replies := r :: s.replies }

/-- 70_reset_and_hazards.md R240: an accepted command is pending for finitely many steps only, whatever the host does. It does not
say whether the command completed or a soft reset abandoned it (R231). The moves that bound the steps are the model's choice (log 1). -/
def Obligations.PendingCommandEnds : Prop :=
  ∀ (s : State) (w : Word), s.seq = .busy w → ∃ k t,
    k ≤ stepBudget s.moves ∧ Host.Core.run Sys2Proof.core k s = .next t ∧ State.seq t = .idle

/-! ## The host's accesses -/

/-- 10_state.md R20, R53, R55, 20_memory.md R65: while BUSY, no host access but a soft reset touches SEQ, an operand, a
result register or BUF. The count of draws that it may move is the model's choice (log 4). -/
def Obligations.BusyAccessLeavesCommandAlone : Prop :=
  ∀ (s : State) (w : Word) (a : Access), s.seq = .busy w → a.isSoftReset = false →
    (s.access a).1 = { s with
      intStatus := (s.access a).1.intStatus, intEnable := (s.access a).1.intEnable, draws := (s.access a).1.draws }

/-- 10_state.md R53, R54, 20_memory.md R65: while BUSY, no response depends on BUF or on a result register. The rules say
only that such a read is unspecified; that its free value depends on the count of draws alone is the model's choice (log 4). -/
def Obligations.BusyResponsesRevealNothing : Prop :=
  ∀ (s : State) (w : Word) (a : Access) (b : List Host.Cell) (v0 v1 v2 v3 v4 v5 v6 v7 v8 : Word), s.seq = .busy w →
    (State.access { s with
      buf := b, crcState := v0, crcResult := v1, chunkLen := v2, chunkCrc := v3, ptype := v4, typeFlags := v5,
      next := v6, chunkCount := v7, errOff := v8 } a).2 = (s.access a).2

/-- 10_state.md R55: host writes while BUSY, and 20_memory.md R65: every BUF access while BUSY. Writes of the read-only registers and
of the reserved offsets are ignored whether or not the block is BUSY. That a refused read advances the count of draws by one is the
model's choice (log 4). -/
def Obligations.WritesWhileBusy : Prop :=
  ∀ s : State,
    (∀ w, s.seq = .busy w →
      (∀ r ∈ [Csr.cmd, .src, .len, .dst, .type, .crcState], ∀ d,
        s.access (csrw r d) = ({ s with intStatus := s.intStatus ||| 0x4#32 }, .written)) ∧
      (∀ d, s.access (csrw .ctrl d) = ((if d.getLsbD 0 = true then s.softReset else s), .written)) ∧
      (∀ d, s.access (csrw .intStatus d) = ({ s with intStatus := s.intStatus &&& ~~~d }, .written)) ∧
      (∀ d, s.access (csrw .intEnable d) = ({ s with intEnable := d &&& 0x7#32 }, .written)) ∧
      (∀ off width, (∃ v, s.access { port := .buf, offset := off, width := width, dir := .read } =
        ({ s with draws := s.draws + 1 }, .busErrData v)) ∧
        ∀ d, s.access { port := .buf, offset := off, width := width, dir := .write d } = (s, .busErr))) ∧
    (∀ r ∈ [Csr.id, .status, .crcResult, .chunkLen, .chunkCrc, .ptype, .typeFlags, .next, .chunkCount, .errOff, .config,
      .features], ∀ d, s.access (csrw r d) = (s, .written)) ∧
    (∀ off, off % 4 = 0 → 0x54 ≤ off → off < 0x100 → ∀ d,
      s.access { port := .csr, offset := off, width := 4, dir := .write d } = (s, .written))

/-- 10_state.md R54: host reads of the CSRs while BUSY. That an unspecified value is `Config.freeWord` of the count of draws, which the
read advances by one, is the model's choice (log 4). -/
def Obligations.ReadsWhileBusy : Prop :=
  ∀ (s : State) (w : Word), s.seq = .busy w →
    (∀ r ∈ [Csr.crcState, .crcResult, .chunkLen, .chunkCrc, .ptype, .typeFlags, .next, .chunkCount, .errOff],
      s.access (csrr r) = ({ s with draws := s.draws + 1 }, .word (Config.freeWord s.draws))) ∧
    (∀ r ∈ [Csr.id, .ctrl, .status, .cmd, .intStatus, .intEnable, .src, .len, .dst, .type, .config, .features],
      s.access (csrr r) = (s, .word (s.readCsr r))) ∧
    (∀ off, off % 4 = 0 → 0x54 ≤ off → off < 0x100 →
      s.access { port := .csr, offset := off, width := 4, dir := .read } = (s, .word 0))

/-- 10_state.md R23 (and R24, R25, R27 to R34): reads and writes of every CSR while IDLE, by access type; the reserved
bits of the registers that have some read 0 in every state that meets the invariant. -/
def Obligations.RegisterAccessWhileIdle : Prop :=
  ∀ s : State, s.seq = .idle →
    (∀ r, s.access (csrr r) = (s, .word (s.readCsr r))) ∧
    s.readCsr .id = 0x504E4743#32 ∧ s.readCsr .ctrl = 0 ∧ s.readCsr .cmd = 0 ∧
    (∀ r ∈ [Csr.id, .status, .crcResult, .chunkLen, .chunkCrc, .ptype, .typeFlags, .next, .chunkCount, .errOff, .config,
      .features], ∀ d, s.access (csrw r d) = (s, .written)) ∧
    (∀ d, s.access (csrw .src d) = ({ s with src := d }, .written)) ∧
    (∀ d, s.access (csrw .len d) = ({ s with len := d }, .written)) ∧
    (∀ d, s.access (csrw .dst d) = ({ s with dst := d }, .written)) ∧
    (∀ d, s.access (csrw .type d) = ({ s with type := d }, .written)) ∧
    (∀ d, s.access (csrw .crcState d) = ({ s with crcState := d }, .written)) ∧
    (∀ d, s.access (csrw .intEnable d) = ({ s with intEnable := d &&& 0x7#32 }, .written)) ∧
    (∀ d, s.access (csrw .intStatus d) = ({ s with intStatus := s.intStatus &&& ~~~d }, .written)) ∧
    (∀ r ∈ [Csr.src, .len, .dst, .type, .crcState], ∀ d, ((s.access (csrw r d)).1.access (csrr r)).2 = .word d) ∧
    (∀ d, ((s.access (csrw .intEnable d)).1.access (csrr .intEnable)).2 = .word (d &&& 0x7#32)) ∧
    (∀ d, s.access (csrw .ctrl d) = ((if d.getLsbD 0 = true then s.softReset else s), .written)) ∧
    (∀ d, s.access (csrw .cmd d) = (s.accept d, .written)) ∧
    (s.Inv → s.readCsr .status &&& 0xFF00F0FC#32 = 0 ∧ s.readCsr .intStatus &&& 0xFFFFFFF8#32 = 0 ∧
      s.readCsr .intEnable &&& 0xFFFFFFF8#32 = 0 ∧ s.readCsr .typeFlags &&& 0xFFFF00C0#32 = 0 ∧
      s.readCsr .features &&& 0xFFFFFFFE#32 = 0) ∧
    (∀ off, off % 4 = 0 → 0x54 ≤ off → off < 0x100 →
      s.access { port := .csr, offset := off, width := 4, dir := .read } = (s, .word 0) ∧
      ∀ d, s.access { port := .csr, offset := off, width := 4, dir := .write d } = (s, .written))

/-- 20_memory.md R63: which accesses of the CSR port are legal, and what an illegal one and a reserved offset get. BUSERR for the
widths 0, 3 and above 4 is read from R63 by the model (log 8); that a refused read advances the count of draws by one is the
model's choice (log 4). -/
def Obligations.CsrPortLegalAccesses : Prop :=
  ∀ (s : State) (off width : Nat),
    ((width ≠ 4 ∨ off % 4 ≠ 0 ∨ 0x100 ≤ off) →
      (∃ v, s.access { port := .csr, offset := off, width := width, dir := .read } =
        ({ s with draws := s.draws + 1 }, .busErrData v)) ∧
      ∀ d, s.access { port := .csr, offset := off, width := width, dir := .write d } = (s, .busErr)) ∧
    (width = 4 → off % 4 = 0 → off < 0x100 →
      (∃ v, (s.access { port := .csr, offset := off, width := width, dir := .read }).2 = .word v) ∧
      ∀ d, (s.access { port := .csr, offset := off, width := width, dir := .write d }).2 = .written) ∧
    (width = 4 → off % 4 = 0 → 0x54 ≤ off → off < 0x100 →
      s.access { port := .csr, offset := off, width := width, dir := .read } = (s, .word 0) ∧
      ∀ d, s.access { port := .csr, offset := off, width := width, dir := .write d } = (s, .written))

/-- 20_memory.md R64 with the lanes of R66: accesses of the BUF port while IDLE. BUSERR for the widths 0, 3 and above 4 is read
from R64 by the model (log 8); that a refused read advances the count of draws by one is the model's choice (log 4). -/
def Obligations.BufPortWhileIdle : Prop :=
  ∀ s : State, s.seq = .idle →
    (∀ a, a < s.params.bufBytes →
      s.access (br8 a) = (s, .byte (s.byteAt a)) ∧
      ∀ d, ∃ t, s.access { port := .buf, offset := a, width := 1, dir := .write d } = (t, .written) ∧
        t = { s with buf := t.buf } ∧ t.byteAt a = d.extractLsb' 0 8 ∧ ∀ x, x ≠ a → t.byteAt x = s.byteAt x) ∧
    (∀ a, a % 4 = 0 → a + 4 ≤ s.params.bufBytes →
      s.access (br32 a) = (s, .word (s.byteAt a ++ s.byteAt (a + 1) ++ s.byteAt (a + 2) ++ s.byteAt (a + 3))) ∧
      ∀ d, ∃ t, s.access (bw32 a d) = (t, .written) ∧ t = { s with buf := t.buf } ∧
        t.byteAt a = d.extractLsb' 24 8 ∧ t.byteAt (a + 1) = d.extractLsb' 16 8 ∧
        t.byteAt (a + 2) = d.extractLsb' 8 8 ∧ t.byteAt (a + 3) = d.extractLsb' 0 8 ∧
        ∀ x, x < a ∨ a + 4 ≤ x → t.byteAt x = s.byteAt x) ∧
    (∀ a width, ¬ (width = 1 ∧ a < s.params.bufBytes) →
      ¬ (width = 4 ∧ a % 4 = 0 ∧ a + 4 ≤ s.params.bufBytes) →
      (∃ v, s.access { port := .buf, offset := a, width := width, dir := .read } =
        ({ s with draws := s.draws + 1 }, .busErrData v)) ∧
      ∀ d, s.access { port := .buf, offset := a, width := width, dir := .write d } = (s, .busErr))

/-- 20_memory.md R69: a 4-byte write then 1-byte reads, and 1-byte writes then a 4-byte read. -/
def Obligations.MixedWidthBufAccess : Prop :=
  ∀ (s : State) (a : Nat) (d : Word) (b0 b1 b2 b3 : Byte), s.seq = .idle → a % 4 = 0 → a + 4 ≤ s.params.bufBytes →
    (((s.access (bw32 a d)).1.access (br8 a)).2 = .byte (d.extractLsb' 24 8) ∧
      ((s.access (bw32 a d)).1.access (br8 (a + 1))).2 = .byte (d.extractLsb' 16 8) ∧
      ((s.access (bw32 a d)).1.access (br8 (a + 2))).2 = .byte (d.extractLsb' 8 8) ∧
      ((s.access (bw32 a d)).1.access (br8 (a + 3))).2 = .byte (d.extractLsb' 0 8)) ∧
    (((((s.access (bw8 a b0)).1.access (bw8 (a + 1) b1)).1.access (bw8 (a + 2) b2)).1.access (bw8 (a + 3) b3)).1.access
      (br32 a)).2 = .word (b0 ++ b1 ++ b2 ++ b3)

/-- 20_memory.md R70: a host read changes nothing of the block; only the model's count of draws can move (log 4). -/
def Obligations.ReadsHaveNoSideEffect : Prop :=
  ∀ (s : State) (a : Access), a.dir = .read → (s.access a).1 = { s with draws := (s.access a).1.draws }

/-- 10_state.md R28: an INT_STATUS bit stays 1 through every step, but for a host write of 1 to it or a soft reset.
The moves that a step takes are the model's choice (log 1). -/
def Obligations.IntStatusBitsAreSticky : Prop :=
  ∀ (s t : State) (k : Nat), step s = .next t → s.intStatus.getLsbD k = true → t.intStatus.getLsbD k = false →
    ∃ a rest, (s.moves = .host a :: rest ∨ s.moves = .both a :: rest) ∧
      (a.isSoftReset = true ∨
        (a.port = .csr ∧ a.offset = 0x10 ∧ a.width = 4 ∧ ∃ d, a.dir = .write d ∧ d.getLsbD k = true))

/-- 10_state.md R46, 60_exceptions.md R209, R212: `irq` is high while an enabled source is pending; a completion raises it if enabled;
it falls only in a step in which the host writes INT_STATUS, INT_ENABLE or CTRL. The moves are the model's choice (log 1). -/
def Obligations.IrqLevel : Prop :=
  (∀ s : State, s.irq = true ↔ ∃ k, k < 3 ∧ s.intStatus.getLsbD k = true ∧ s.intEnable.getLsbD k = true) ∧
  (∀ (i : Instr) (s t : State), exec i s = .next t →
    (s.intEnable.getLsbD 0 = true → t.irq = true) ∧
    (s.intEnable.getLsbD 1 = true → statusErr t.status = true → t.irq = true)) ∧
  (∀ s : State, (s.access (csrw .intStatus 0x7#32)).1.irq = false) ∧
  (∀ s t : State, step s = .next t → s.irq = true → t.irq = false →
    ∃ a rest d, (s.moves = .host a :: rest ∨ s.moves = .both a :: rest) ∧ a.dir = .write d ∧ a.port = .csr ∧ a.width = 4 ∧
      (a.offset = 0x04 ∨ a.offset = 0x10 ∨ a.offset = 0x14))

/-- 70_reset_and_hazards.md R231: soft reset, IDLE or BUSY. That byte k of an aborted destination is `Config.freeByte` of the
count of draws plus k is the model's choice (log 4). -/
def Obligations.SoftResetResults : Prop :=
  ∀ (s : State) (v : Word), v.getLsbD 0 = true → ∃ t,
    s.access (csrw .ctrl v) = (t, .written) ∧ t.seq = .idle ∧ t.params = s.params ∧
    (∀ r, t.readCsr r = (State.powerOn s.params).readCsr r) ∧ t.irq = false ∧
    (∀ x, (∀ w d n, s.seq = .busy w → s.storeRange (decodeCommand w) = some (d, n) → x < d ∨ d + n ≤ x) →
      t.byteAt x = s.byteAt x) ∧
    (∀ w d n, s.seq = .busy w → s.storeRange (decodeCommand w) = some (d, n) →
      ∀ k, k < n → t.byteAt (d + k) = Config.freeByte (s.draws + k)) ∧
    (∀ d n, s.storeRange .chunkSerialize = some (d, n) ↔
      (s.src.toNat + s.len.toNat ≤ s.params.bufBytes ∧ s.dst.toNat + (s.len.toNat + 12) ≤ s.params.bufBytes ∧
        ¬ (∃ x, (s.src.toNat ≤ x ∧ x < s.src.toNat + s.len.toNat) ∧
          (s.dst.toNat ≤ x ∧ x < s.dst.toNat + (s.len.toNat + 12))) ∧
        d = s.dst.toNat ∧ n = s.len.toNat + 12)) ∧
    (∀ d n, s.storeRange .sigWrite = some (d, n) ↔ (s.dst.toNat + 8 ≤ s.params.bufBytes ∧ d = s.dst.toNat ∧ n = 8)) ∧
    (∀ i, i ≠ .chunkSerialize → i ≠ .sigWrite → s.storeRange i = none)

/-- 60_exceptions.md R214: a host write in the same step as a completion. The move `both`, its order (the access, then the completion) and
the fields `moves` and `replies` are the model's choice (log 1). -/
def Obligations.SimultaneousEvents : Prop :=
  ∀ (s : State) (w : Word) (rest : List Move), s.seq = .busy w →
    (∀ r ∈ [Csr.cmd, .src, .len, .dst, .type, .crcState], ∀ d, s.moves = .both (csrw r d) :: rest →
      ∃ t, step s = .next t ∧
        exec (decodeCommand w) { s with
          intStatus := s.intStatus ||| 0x4#32, moves := rest, replies := .written :: s.replies } = .next t ∧
        t.seq = .idle ∧ t.intStatus.getLsbD 0 = true ∧ t.intStatus.getLsbD 2 = true ∧
        t.src = s.src ∧ t.len = s.len ∧ t.dst = s.dst ∧ t.type = s.type) ∧
    (∀ d, s.moves = .both (csrw .intStatus d) :: rest →
      ∃ t, step s = .next t ∧ t.seq = .idle ∧ t.intStatus.getLsbD 0 = true ∧
        (statusErr t.status = true → t.intStatus.getLsbD 1 = true) ∧
        (d.getLsbD 2 = true → t.intStatus.getLsbD 2 = false)) ∧
    (∀ d, d.getLsbD 0 = true → s.moves = .both (csrw .ctrl d) :: rest →
      ∃ t, step s = .next t ∧ t.seq = .idle ∧ (∀ r, t.readCsr r = (State.powerOn s.params).readCsr r) ∧
        t.buf = s.softReset.buf)

/-- 00_scope.md R7, 20_memory.md R60, R71: the two windows reach the two ports. That an address in neither window reaches no port is read
from these rules by the model (log 8). -/
def Obligations.WindowsReachPorts : Prop :=
  ∀ (p : Params) (addr : Nat), p.wf →
    (∀ off, off < 0x100 → routeAddress p (p.csrBase + off) = some (.csr, off)) ∧
    (∀ off, off < p.bufBytes → routeAddress p (p.bufBase + off) = some (.buf, off)) ∧
    ((addr < p.csrBase ∨ p.csrBase + 0x100 ≤ addr) → (addr < p.bufBase ∨ p.bufBase + p.bufBytes ≤ addr) →
      routeAddress p addr = none)

/-! ## The commands -/

/-- 44_control.md R180. -/
def Obligations.NopCompletes : Prop :=
  decodeCommand 0x00000000#32 = .nop ∧ ∀ s : State, exec .nop s = .next (s.complete .none)

/-- 44_control.md R181: an illegal word completes with BAD_COMMAND and changes STATUS and INT_STATUS only. -/
def Obligations.BadCommandCompletes : Prop :=
  ∀ (w : Word) (s : State),
    ((w.extractLsb' 8 24 ≠ 0 ∨ w.extractLsb' 0 8 ∉ [0x00#8, 0x01#8, 0x02#8, 0x03#8, 0x04#8, 0x10#8, 0x11#8, 0x20#8, 0x21#8,
      0x30#8, 0x31#8, 0x32#8]) → decodeCommand w = .badCommand w) ∧
    exec (.badCommand w) s = .next (s.complete .badCommand) ∧ ErrCode.badCommand.code = 6

/-- 41_crc.md R122. -/
def Obligations.CrcInitResult : Prop :=
  decodeCommand 0x00000001#32 = .crcInit ∧
  ∀ s : State, exec .crcInit s = .next ({ s with crcState := 0xFFFFFFFF#32 }.complete .none)

/-- 41_crc.md R123. -/
def Obligations.CrcUpdateResult : Prop :=
  decodeCommand 0x00000002#32 = .crcUpdate ∧
  ∀ s : State,
    (s.src.toNat + s.len.toNat ≤ s.params.bufBytes →
      exec .crcUpdate s =
        .next ({ s with crcState := crcFold s.crcState (s.bytesAt s.src.toNat s.len.toNat) }.complete .none)) ∧
    (s.params.bufBytes < s.src.toNat + s.len.toNat → exec .crcUpdate s = .next (s.complete .range))

/-- 41_crc.md R124. -/
def Obligations.CrcFinalResult : Prop :=
  decodeCommand 0x00000003#32 = .crcFinal ∧
  ∀ s : State, exec .crcFinal s = .next ({ s with crcResult := s.crcState ^^^ 0xFFFFFFFF#32 }.complete .none)

/-- 41_crc.md R125. -/
def Obligations.ChunkNewResult : Prop :=
  decodeCommand 0x00000004#32 = .chunkNew ∧
  ∀ s : State,
    (s.src.toNat + s.len.toNat ≤ s.params.bufBytes →
      exec .chunkNew s = .next ({ s with
        chunkLen := s.len
        crcResult := crc32 (bytes32 s.type ++ s.bytesAt s.src.toNat s.len.toNat) }.complete .none)) ∧
    (s.params.bufBytes < s.src.toNat + s.len.toNat → exec .chunkNew s = .next (s.complete .range))

/-- 40_chunk_type.md R101. -/
def Obligations.TypeClassifyResult : Prop :=
  decodeCommand 0x00000010#32 = .typeClassify ∧
  ∀ s : State, exec .typeClassify s = .next ({ s with typeFlags := classify s.params s.type }.complete .none)

/-- 40_chunk_type.md R102. -/
def Obligations.TypeCheckTextResult : Prop :=
  decodeCommand 0x00000011#32 = .typeCheckText ∧
  ∀ s : State,
    ((∀ b ∈ bytes32 s.type, isAlpha b = true) →
      exec .typeCheckText s = .next ({ s with typeFlags := classify s.params s.type }.complete .none)) ∧
    ((∃ b ∈ bytes32 s.type, isAlpha b = false) → exec .typeCheckText s = .next (s.complete .nonAlphabetic))

/-- 40_chunk_type.md R100, R103, 10_state.md R39: the bits of a classification. -/
def Obligations.ClassifyBits : Prop :=
  ∀ (p : Params) (b0 b1 b2 b3 : Byte) (k : Nat),
    (classify p (b0 ++ b1 ++ b2 ++ b3)).getLsbD k =
      ((k == 0 && !b0.getLsbD 5) || (k == 1 && !b1.getLsbD 5) || (k == 2 && isUpper b2) || (k == 3 && b3.getLsbD 5) ||
       (k == 4 && (isAlpha b0 && isAlpha b1 && isAlpha b2 && isAlpha b3)) ||
       (k == 5 && (b3.getLsbD 5 && (isAlpha b0 && isAlpha b1 && isAlpha b2 && isAlpha b3) &&
          (!p.validIncludesReserved || isUpper b2))) ||
       (k == 8 && isAlpha b0) || (k == 9 && isAlpha b1) || (k == 10 && isAlpha b2) || (k == 11 && isAlpha b3) ||
       (k == 12 && isUpper b0) || (k == 13 && isUpper b1) || (k == 14 && isUpper b2) || (k == 15 && isUpper b3))

/-- 42_chunk.md R140: when `frame` is Truncated, what a framed record holds, and that no other byte is read. -/
def Obligations.FrameReadsRecord : Prop :=
  (∀ (s : State) (r avail : Nat),
    ((avail < 4 ∨ avail < 12 + (be32 (s.bytesAt r 4)).toNat) → s.frame r avail = .truncated) ∧
    (4 ≤ avail → 12 + (be32 (s.bytesAt r 4)).toNat ≤ avail →
      s.frame r avail = .record (be32 (s.bytesAt r 4)) (be32 (s.bytesAt (r + 4) 4))
        (be32 (s.bytesAt (r + 8 + (be32 (s.bytesAt r 4)).toNat) 4))
        (crc32 (bytes32 (be32 (s.bytesAt (r + 4) 4)) ++ s.bytesAt (r + 8) (be32 (s.bytesAt r 4)).toNat)))) ∧
  (∀ (s t : State) (r avail : Nat), (∀ x, r ≤ x → x < r + avail → s.byteAt x = t.byteAt x) →
    s.frame r avail = t.frame r avail)

/-- 42_chunk.md R141. -/
def Obligations.ChunkParseResult : Prop :=
  decodeCommand 0x00000020#32 = .chunkParse ∧
  ∀ (s : State) (r n L : Nat) (t stored computed : Word),
    r = s.src.toNat → n = s.len.toNat → L = (be32 (s.bytesAt r 4)).toNat → t = be32 (s.bytesAt (r + 4) 4) →
    stored = be32 (s.bytesAt (r + 8 + L) 4) → computed = crc32 (bytes32 t ++ s.bytesAt (r + 8) L) →
    (s.params.bufBytes < r + n → exec .chunkParse s = .next (s.complete .range)) ∧
    (r + n ≤ s.params.bufBytes → (n < 4 ∨ n < 12 + L) →
      exec .chunkParse s = .next ({ s with errOff := s.src }.complete .truncated)) ∧
    (r + n ≤ s.params.bufBytes → 12 + L ≤ n → computed = stored →
      exec .chunkParse s = .next ({ s with
        chunkLen := be32 (s.bytesAt r 4), ptype := t, chunkCrc := stored, crcResult := computed
        typeFlags := classify s.params t, next := BitVec.ofNat 32 (r + 12 + L) }.complete .none)) ∧
    (r + n ≤ s.params.bufBytes → 12 + L ≤ n → computed ≠ stored →
      exec .chunkParse s = .next ({ s with
        chunkLen := be32 (s.bytesAt r 4), ptype := t, chunkCrc := stored, crcResult := computed
        typeFlags := classify s.params t, next := BitVec.ofNat 32 (r + 12 + L)
        errOff := s.src }.complete .crcMismatch))

/-- 42_chunk.md R145, R146. -/
def Obligations.ChunkSerializeResult : Prop :=
  decodeCommand 0x00000021#32 = .chunkSerialize ∧
  ∀ (s : State) (a n d : Nat) (c : Word),
    a = s.src.toNat → n = s.len.toNat → d = s.dst.toNat → c = crc32 (bytes32 s.type ++ s.bytesAt a n) →
    (s.params.bufBytes < a + n ∨ s.params.bufBytes < d + n + 12 →
      exec .chunkSerialize s = .next (s.complete .range)) ∧
    (a + n ≤ s.params.bufBytes → d + n + 12 ≤ s.params.bufBytes →
      (∃ x, (a ≤ x ∧ x < a + n) ∧ (d ≤ x ∧ x < d + (n + 12))) →
      exec .chunkSerialize s = .next (s.complete .overlap)) ∧
    (a + n ≤ s.params.bufBytes → d + n + 12 ≤ s.params.bufBytes →
      (¬ ∃ x, (a ≤ x ∧ x < a + n) ∧ (d ≤ x ∧ x < d + (n + 12))) →
      ∃ t, exec .chunkSerialize s = .next t ∧
        t = { s.complete .none with
          buf := t.buf, chunkLen := s.len, crcResult := c, next := BitVec.ofNat 32 (d + n + 12) } ∧
        t.bytesAt d 4 = bytes32 s.len ∧ t.bytesAt (d + 4) 4 = bytes32 s.type ∧
        t.bytesAt (d + 8) n = s.bytesAt a n ∧ t.bytesAt (d + 8 + n) 4 = bytes32 c ∧
        ∀ x, x < d ∨ d + n + 12 ≤ x → t.byteAt x = s.byteAt x)

/-- 43_stream.md R160. -/
def Obligations.SigCheckResult : Prop :=
  decodeCommand 0x00000030#32 = .sigCheck ∧
  ∀ s : State,
    (s.params.bufBytes < s.src.toNat + s.len.toNat → exec .sigCheck s = .next (s.complete .range)) ∧
    (s.src.toNat + s.len.toNat ≤ s.params.bufBytes → s.len.toNat < 8 →
      exec .sigCheck s = .next ({ s with errOff := s.src }.complete .truncated)) ∧
    (s.src.toNat + s.len.toNat ≤ s.params.bufBytes → 8 ≤ s.len.toNat → s.bytesAt s.src.toNat 8 ≠ sig →
      exec .sigCheck s = .next ({ s with errOff := s.src }.complete .badSignature)) ∧
    (s.src.toNat + s.len.toNat ≤ s.params.bufBytes → 8 ≤ s.len.toNat → s.bytesAt s.src.toNat 8 = sig →
      exec .sigCheck s = .next ({ s with next := BitVec.ofNat 32 (s.src.toNat + 8) }.complete .none))

/-- 43_stream.md R162. -/
def Obligations.SigWriteResult : Prop :=
  decodeCommand 0x00000031#32 = .sigWrite ∧
  ∀ s : State,
    (s.params.bufBytes < s.dst.toNat + 8 → exec .sigWrite s = .next (s.complete .range)) ∧
    (s.dst.toNat + 8 ≤ s.params.bufBytes → ∃ t, exec .sigWrite s = .next t ∧
      t = { s.complete .none with buf := t.buf, next := BitVec.ofNat 32 (s.dst.toNat + 8) } ∧
      t.bytesAt s.dst.toNat 8 = [0x89#8, 0x50#8, 0x4E#8, 0x47#8, 0x0D#8, 0x0A#8, 0x1A#8, 0x0A#8] ∧
      ∀ x, x < s.dst.toNat ∨ s.dst.toNat + 8 ≤ x → t.byteAt x = s.byteAt x)

/-- 43_stream.md R164, success: a signature and `k` records that end exactly at the end of the stream. -/
def Obligations.StreamParseAccepts : Prop :=
  decodeCommand 0x00000032#32 = .streamParse ∧
  ∀ (s : State) (k : Nat), s.src.toNat + s.len.toNat ≤ s.params.bufBytes → 8 ≤ s.len.toNat →
    s.bytesAt s.src.toNat 8 = sig →
    s.Walks (s.src.toNat + s.len.toNat) (s.src.toNat + 8) k (s.src.toNat + s.len.toNat) →
    exec .streamParse s = .next ({ s with
      chunkCount := BitVec.ofNat 32 k, next := BitVec.ofNat 32 (s.src.toNat + s.len.toNat) }.complete .none)

/-- 43_stream.md R164, errors: RANGE, TRUNCATED, BAD_SIGNATURE, then the first failing record, with its offset. -/
def Obligations.StreamParseErrors : Prop :=
  ∀ (s : State) (k bad fin : Nat), fin = s.src.toNat + s.len.toNat →
    (s.params.bufBytes < fin → exec .streamParse s = .next (s.complete .range)) ∧
    (fin ≤ s.params.bufBytes → s.len.toNat < 8 →
      exec .streamParse s = .next ({ s with errOff := s.src }.complete .truncated)) ∧
    (fin ≤ s.params.bufBytes → 8 ≤ s.len.toNat → s.bytesAt s.src.toNat 8 ≠ sig →
      exec .streamParse s = .next ({ s with errOff := s.src }.complete .badSignature)) ∧
    (fin ≤ s.params.bufBytes → 8 ≤ s.len.toNat → s.bytesAt s.src.toNat 8 = sig →
      s.Walks fin (s.src.toNat + 8) k bad → bad < fin →
      (s.frame bad (fin - bad) = .truncated →
        exec .streamParse s = .next ({ s with errOff := BitVec.ofNat 32 bad }.complete .truncated)) ∧
      (∀ len type stored computed, s.frame bad (fin - bad) = .record len type stored computed → computed ≠ stored →
        exec .streamParse s = .next ({ s with errOff := BitVec.ofNat 32 bad }.complete .crcMismatch)))

/-- 43_stream.md R164: the loop ends, at the end of the stream or at the first record that fails. -/
def Obligations.StreamWalkEnds : Prop :=
  ∀ (s : State) (fin cur : Nat), cur ≤ fin → ∃ k stop,
    s.Walks fin cur k stop ∧ cur + 12 * k ≤ stop ∧ stop ≤ fin ∧
    (stop = fin ∨ s.frame stop (fin - stop) = .truncated ∨
      ∃ len type stored computed, s.frame stop (fin - stop) = .record len type stored computed ∧ computed ≠ stored)

/-- 60_exceptions.md R204: a command whose range leaves BUF completes with RANGE and does nothing else; no other command raises RANGE. -/
def Obligations.RangeCheck : Prop :=
  ∀ (i : Instr) (s : State),
    ((∃ r ∈ s.checkedRanges i, s.params.bufBytes < r.1 + r.2) → exec i s = .next (s.complete .range)) ∧
    ((∀ r ∈ s.checkedRanges i, r.1 + r.2 ≤ s.params.bufBytes) →
      ∃ t, exec i s = .next t ∧ statusErrCode t.status ≠ 7)

/-! ## Frames -/

/-- 30_encoding.md R83, 10_state.md R22: a command changes only the CSRs the tables name for it; operands, INT_ENABLE, the parameters
and the host's side are never changed. The fields of the host's side and the count of draws are the model's own (logs 1 and 4). -/
def Obligations.RegisterFrame : Prop :=
  ∀ (i : Instr) (s t : State), exec i s = .next t →
    (∀ r, r ∉ csrsWritten i → t.readCsr r = s.readCsr r) ∧
    t.src = s.src ∧ t.len = s.len ∧ t.dst = s.dst ∧ t.type = s.type ∧ t.intEnable = s.intEnable ∧
    t.params = s.params ∧ t.draws = s.draws ∧ t.moves = s.moves ∧ t.replies = s.replies

/-- 42_chunk.md R144, 20_memory.md R61: a command changes no byte of BUF outside the range it stores to; ten of the twelve
commands, and every illegal word, store nothing. -/
def Obligations.MemoryFrame : Prop :=
  ∀ (i : Instr) (s t : State) (a : Nat), exec i s = .next t →
    (∀ d n, s.storeRange i = some (d, n) → a < d ∨ d + n ≤ a) → t.byteAt a = s.byteAt a

/-- 10_state.md R26, R28, 60_exceptions.md R210: a command leaves LAST_OP, the reserved STATUS bits and INT_STATUS bits 31:2 alone,
and clears no INT_STATUS bit. -/
def Obligations.StatusFrame : Prop :=
  ∀ (i : Instr) (s t : State), exec i s = .next t →
    statusLastOp t.status = statusLastOp s.status ∧ t.status &&& 0xFF00F0FC#32 = s.status &&& 0xFF00F0FC#32 ∧
    (∀ k, 2 ≤ k → t.intStatus.getLsbD k = s.intStatus.getLsbD k) ∧
    (∀ k, s.intStatus.getLsbD k = true → t.intStatus.getLsbD k = true)

/-- 60_exceptions.md R205, R207, 10_state.md R43: a command that raises an error writes neither BUF nor a result register, but for
ERR_OFF on codes 1, 2 and 4, and the loads of a CHUNK_PARSE with code 4; without an error ERR_OFF is unchanged. -/
def Obligations.ErrorsArePrecise : Prop :=
  ∀ (i : Instr) (s t : State), exec i s = .next t →
    (statusErr t.status = true → t.buf = s.buf ∧
      ((i = .chunkParse ∧ statusErrCode t.status = 4) ∨
        ∀ r ∈ [Csr.crcState, .crcResult, .chunkLen, .chunkCrc, .ptype, .typeFlags, .next, .chunkCount],
          t.readCsr r = s.readCsr r)) ∧
    (statusErrCode t.status ∉ [1#4, 2#4, 4#4] → t.errOff = s.errOff)

/-! ## Laws -/

/-- 00_scope.md R10: `be32` and `bytes32` are inverse to each other. -/
def Obligations.BigEndianRoundTrip : Prop :=
  (∀ v : Word, be32 (bytes32 v) = v) ∧ (∀ b0 b1 b2 b3 : Byte, bytes32 (be32 [b0, b1, b2, b3]) = [b0, b1, b2, b3] ∧
    (be32 [b0, b1, b2, b3]).toNat = b0.toNat * 2 ^ 24 + b1.toNat * 2 ^ 16 + b2.toNat * 2 ^ 8 + b3.toNat)

/-- 41_crc.md R126: folding a concatenation, and any split of the bytes of a CRC. -/
def Obligations.CrcFoldOfSplit : Prop :=
  (∀ (c : Word) (s t : List Byte), crcFold c (s ++ t) = crcFold (crcFold c s) t) ∧
  (∀ parts : List (List Byte), parts.foldl crcFold 0xFFFFFFFF#32 ^^^ 0xFFFFFFFF#32 = crc32 parts.flatten)

/-- 41_crc.md R126, R122 to R124: CRC_INIT, two CRC_UPDATEs over adjacent ranges and CRC_FINAL give the CRC of the whole range. -/
def Obligations.RunningCrcOfAdjacentRanges : Prop :=
  ∀ (s : State) (a m n : Nat), s.params.bufBytes ≤ 2 ^ 31 → a + m + n ≤ s.params.bufBytes →
    ∃ s0 s1 s2 s3, exec .crcInit s = .next s0 ∧
      exec .crcUpdate { s0 with src := BitVec.ofNat 32 a, len := BitVec.ofNat 32 m } = .next s1 ∧
      exec .crcUpdate { s1 with src := BitVec.ofNat 32 (a + m), len := BitVec.ofNat 32 n } = .next s2 ∧
      exec .crcFinal s2 = .next s3 ∧ s3.crcResult = crc32 (s.bytesAt a (m + n))

/-- 41_crc.md R120: the parameters of the function and its check value, of the bytes of "123456789". -/
def Obligations.Crc32CheckValue : Prop :=
  (∀ bs : List Byte, crc32 bs = crcFold 0xFFFFFFFF#32 bs ^^^ 0xFFFFFFFF#32) ∧
  crc32 [0x31#8, 0x32#8, 0x33#8, 0x34#8, 0x35#8, 0x36#8, 0x37#8, 0x38#8, 0x39#8] = 0xCBF43926#32

/-- 41_crc.md R128, first fact, in a stronger form: a change of one byte (so of one bit) changes the CRC. -/
def Obligations.CrcDetectsOneByteChange : Prop :=
  ∀ (pre post : List Byte) (b b' : Byte), b ≠ b' → crc32 (pre ++ b :: post) ≠ crc32 (pre ++ b' :: post)

/-- 41_crc.md R128, second fact: the CRC is linear over GF(2). -/
def Obligations.CrcIsLinear : Prop :=
  ∀ s s' : List Byte, s.length = s'.length → crc32 s ^^^ crc32 s' = crcFold 0 (List.zipWith (· ^^^ ·) s s')

/-- 42_chunk.md R142, which the spec derives from R140, R141 and R145: a record CHUNK_SERIALIZE wrote parses back to the same chunk. -/
def Obligations.SerializeThenParse : Prop :=
  ∀ (s : State) (len' : Word),
    s.src.toNat + s.len.toNat ≤ s.params.bufBytes →
    (¬ ∃ x, (s.src.toNat ≤ x ∧ x < s.src.toNat + s.len.toNat) ∧
      (s.dst.toNat ≤ x ∧ x < s.dst.toNat + (s.len.toNat + 12))) →
    s.len.toNat + 12 ≤ len'.toNat → s.dst.toNat + len'.toNat ≤ s.params.bufBytes →
    ∃ t u, exec .chunkSerialize s = .next t ∧ exec .chunkParse { t with src := s.dst, len := len' } = .next u ∧
      statusErrCode u.status = 0 ∧ u.chunkLen = s.len ∧ u.ptype = s.type ∧
      u.chunkCrc = t.crcResult ∧ u.crcResult = t.crcResult ∧
      t.crcResult = crc32 (bytes32 s.type ++ s.bytesAt s.src.toNat s.len.toNat) ∧
      u.next = BitVec.ofNat 32 (s.dst.toNat + s.len.toNat + 12) ∧
      u.bytesAt (s.dst.toNat + 8) s.len.toNat = s.bytesAt s.src.toNat s.len.toNat

/-- 42_chunk.md R143, in a stronger form: a record CHUNK_PARSE accepts, with one byte of its type, data or crc field changed
(so with one bit flipped), raises CRC_MISMATCH. -/
def Obligations.ChecksumSensitivity : Prop :=
  ∀ (s : State) (len type crc : Word) (x : Nat) (b : Byte),
    s.src.toNat + s.len.toNat ≤ s.params.bufBytes →
    s.frame s.src.toNat s.len.toNat = .record len type crc crc →
    s.src.toNat + 4 ≤ x → x < s.src.toNat + 12 + len.toNat → b ≠ s.byteAt x →
    ∃ t, exec .chunkParse (s.withBytes x [b]) = .next t ∧ statusErrCode t.status = 4 ∧ t.errOff = s.src

/-- 43_stream.md R166, R167, and the counts of R165: SIG_WRITE leaves a valid stream of no records, and CHUNK_SERIALIZE at the end of a valid stream
leaves one of one more record, longer by 12 + LEN. -/
def Obligations.StreamsGrowRecordByRecord : Prop :=
  (∀ s : State, s.dst.toNat + 8 ≤ s.params.bufBytes → s.params.bufBytes ≤ 2 ^ 31 →
    ∃ t u, exec .sigWrite s = .next t ∧ exec .streamParse { t with src := s.dst, len := 8 } = .next u ∧
      statusErrCode u.status = 0 ∧ u.chunkCount = 0 ∧ u.next = t.next) ∧
  (∀ (s : State) (base n k : Nat), s.params.bufBytes ≤ 2 ^ 31 →
    s.bytesAt base 8 = sig → s.Walks (base + n) (base + 8) k (base + n) → s.dst.toNat = base + n →
    s.src.toNat + s.len.toNat ≤ s.params.bufBytes → base + n + (s.len.toNat + 12) ≤ s.params.bufBytes →
    (¬ ∃ x, (s.src.toNat ≤ x ∧ x < s.src.toNat + s.len.toNat) ∧
      (base + n ≤ x ∧ x < base + n + (s.len.toNat + 12))) →
    ∃ t u, exec .chunkSerialize s = .next t ∧
      exec .streamParse { t with src := BitVec.ofNat 32 base, len := BitVec.ofNat 32 (n + (s.len.toNat + 12)) } = .next u ∧
      statusErrCode u.status = 0 ∧ u.chunkCount = BitVec.ofNat 32 (k + 1) ∧ u.next = t.next)
end

