-- ==== Sys2Proof/Laws/State.lean ====
section
/-! SUPPORT. One lemma per field per named update of State, so that no later proof unfolds a record update. -/

namespace Sys2Proof.Machine

open Sys2Proof

/-! `complete`. -/

@[simp] theorem State.complete_params (s : State) (e : ErrCode) : (s.complete e).params = s.params := rfl
@[simp] theorem State.complete_seq (s : State) (e : ErrCode) : (s.complete e).seq = .idle := rfl
@[simp] theorem State.complete_status (s : State) (e : ErrCode) : (s.complete e).status = statusCompleted s.status e := rfl
@[simp] theorem State.complete_intStatus (s : State) (e : ErrCode) : (s.complete e).intStatus = intCompleted s.intStatus e := rfl
@[simp] theorem State.complete_intEnable (s : State) (e : ErrCode) : (s.complete e).intEnable = s.intEnable := rfl
@[simp] theorem State.complete_src (s : State) (e : ErrCode) : (s.complete e).src = s.src := rfl
@[simp] theorem State.complete_len (s : State) (e : ErrCode) : (s.complete e).len = s.len := rfl
@[simp] theorem State.complete_dst (s : State) (e : ErrCode) : (s.complete e).dst = s.dst := rfl
@[simp] theorem State.complete_type (s : State) (e : ErrCode) : (s.complete e).type = s.type := rfl
@[simp] theorem State.complete_crcState (s : State) (e : ErrCode) : (s.complete e).crcState = s.crcState := rfl
@[simp] theorem State.complete_crcResult (s : State) (e : ErrCode) : (s.complete e).crcResult = s.crcResult := rfl
@[simp] theorem State.complete_chunkLen (s : State) (e : ErrCode) : (s.complete e).chunkLen = s.chunkLen := rfl
@[simp] theorem State.complete_chunkCrc (s : State) (e : ErrCode) : (s.complete e).chunkCrc = s.chunkCrc := rfl
@[simp] theorem State.complete_ptype (s : State) (e : ErrCode) : (s.complete e).ptype = s.ptype := rfl
@[simp] theorem State.complete_typeFlags (s : State) (e : ErrCode) : (s.complete e).typeFlags = s.typeFlags := rfl
@[simp] theorem State.complete_next (s : State) (e : ErrCode) : (s.complete e).next = s.next := rfl
@[simp] theorem State.complete_chunkCount (s : State) (e : ErrCode) : (s.complete e).chunkCount = s.chunkCount := rfl
@[simp] theorem State.complete_errOff (s : State) (e : ErrCode) : (s.complete e).errOff = s.errOff := rfl
@[simp] theorem State.complete_buf (s : State) (e : ErrCode) : (s.complete e).buf = s.buf := rfl
@[simp] theorem State.complete_draws (s : State) (e : ErrCode) : (s.complete e).draws = s.draws := rfl
@[simp] theorem State.complete_moves (s : State) (e : ErrCode) : (s.complete e).moves = s.moves := rfl
@[simp] theorem State.complete_replies (s : State) (e : ErrCode) : (s.complete e).replies = s.replies := rfl

/-! `accept`. -/

@[simp] theorem State.accept_params (s : State) (w : Word) : (s.accept w).params = s.params := rfl
@[simp] theorem State.accept_seq (s : State) (w : Word) : (s.accept w).seq = .busy w := rfl
@[simp] theorem State.accept_status (s : State) (w : Word) : (s.accept w).status = statusAccepted s.status w := rfl
@[simp] theorem State.accept_intStatus (s : State) (w : Word) : (s.accept w).intStatus = s.intStatus := rfl
@[simp] theorem State.accept_intEnable (s : State) (w : Word) : (s.accept w).intEnable = s.intEnable := rfl
@[simp] theorem State.accept_src (s : State) (w : Word) : (s.accept w).src = s.src := rfl
@[simp] theorem State.accept_len (s : State) (w : Word) : (s.accept w).len = s.len := rfl
@[simp] theorem State.accept_dst (s : State) (w : Word) : (s.accept w).dst = s.dst := rfl
@[simp] theorem State.accept_type (s : State) (w : Word) : (s.accept w).type = s.type := rfl
@[simp] theorem State.accept_crcState (s : State) (w : Word) : (s.accept w).crcState = s.crcState := rfl
@[simp] theorem State.accept_crcResult (s : State) (w : Word) : (s.accept w).crcResult = s.crcResult := rfl
@[simp] theorem State.accept_chunkLen (s : State) (w : Word) : (s.accept w).chunkLen = s.chunkLen := rfl
@[simp] theorem State.accept_chunkCrc (s : State) (w : Word) : (s.accept w).chunkCrc = s.chunkCrc := rfl
@[simp] theorem State.accept_ptype (s : State) (w : Word) : (s.accept w).ptype = s.ptype := rfl
@[simp] theorem State.accept_typeFlags (s : State) (w : Word) : (s.accept w).typeFlags = s.typeFlags := rfl
@[simp] theorem State.accept_next (s : State) (w : Word) : (s.accept w).next = s.next := rfl
@[simp] theorem State.accept_chunkCount (s : State) (w : Word) : (s.accept w).chunkCount = s.chunkCount := rfl
@[simp] theorem State.accept_errOff (s : State) (w : Word) : (s.accept w).errOff = s.errOff := rfl
@[simp] theorem State.accept_buf (s : State) (w : Word) : (s.accept w).buf = s.buf := rfl
@[simp] theorem State.accept_draws (s : State) (w : Word) : (s.accept w).draws = s.draws := rfl
@[simp] theorem State.accept_moves (s : State) (w : Word) : (s.accept w).moves = s.moves := rfl
@[simp] theorem State.accept_replies (s : State) (w : Word) : (s.accept w).replies = s.replies := rfl

/-! `withBytes`. -/

@[simp] theorem State.withBytes_params (s : State) (a : Nat) (bs : List Byte) : (s.withBytes a bs).params = s.params := rfl
@[simp] theorem State.withBytes_seq (s : State) (a : Nat) (bs : List Byte) : (s.withBytes a bs).seq = s.seq := rfl
@[simp] theorem State.withBytes_status (s : State) (a : Nat) (bs : List Byte) : (s.withBytes a bs).status = s.status := rfl
@[simp] theorem State.withBytes_intStatus (s : State) (a : Nat) (bs : List Byte) : (s.withBytes a bs).intStatus = s.intStatus := rfl
@[simp] theorem State.withBytes_intEnable (s : State) (a : Nat) (bs : List Byte) : (s.withBytes a bs).intEnable = s.intEnable := rfl
@[simp] theorem State.withBytes_src (s : State) (a : Nat) (bs : List Byte) : (s.withBytes a bs).src = s.src := rfl
@[simp] theorem State.withBytes_len (s : State) (a : Nat) (bs : List Byte) : (s.withBytes a bs).len = s.len := rfl
@[simp] theorem State.withBytes_dst (s : State) (a : Nat) (bs : List Byte) : (s.withBytes a bs).dst = s.dst := rfl
@[simp] theorem State.withBytes_type (s : State) (a : Nat) (bs : List Byte) : (s.withBytes a bs).type = s.type := rfl
@[simp] theorem State.withBytes_crcState (s : State) (a : Nat) (bs : List Byte) : (s.withBytes a bs).crcState = s.crcState := rfl
@[simp] theorem State.withBytes_crcResult (s : State) (a : Nat) (bs : List Byte) : (s.withBytes a bs).crcResult = s.crcResult := rfl
@[simp] theorem State.withBytes_chunkLen (s : State) (a : Nat) (bs : List Byte) : (s.withBytes a bs).chunkLen = s.chunkLen := rfl
@[simp] theorem State.withBytes_chunkCrc (s : State) (a : Nat) (bs : List Byte) : (s.withBytes a bs).chunkCrc = s.chunkCrc := rfl
@[simp] theorem State.withBytes_ptype (s : State) (a : Nat) (bs : List Byte) : (s.withBytes a bs).ptype = s.ptype := rfl
@[simp] theorem State.withBytes_typeFlags (s : State) (a : Nat) (bs : List Byte) : (s.withBytes a bs).typeFlags = s.typeFlags := rfl
@[simp] theorem State.withBytes_next (s : State) (a : Nat) (bs : List Byte) : (s.withBytes a bs).next = s.next := rfl
@[simp] theorem State.withBytes_chunkCount (s : State) (a : Nat) (bs : List Byte) : (s.withBytes a bs).chunkCount = s.chunkCount := rfl
@[simp] theorem State.withBytes_errOff (s : State) (a : Nat) (bs : List Byte) : (s.withBytes a bs).errOff = s.errOff := rfl
@[simp] theorem State.withBytes_buf (s : State) (a : Nat) (bs : List Byte) : (s.withBytes a bs).buf = bufSetBytes s.buf a bs := rfl
@[simp] theorem State.withBytes_draws (s : State) (a : Nat) (bs : List Byte) : (s.withBytes a bs).draws = s.draws := rfl
@[simp] theorem State.withBytes_moves (s : State) (a : Nat) (bs : List Byte) : (s.withBytes a bs).moves = s.moves := rfl
@[simp] theorem State.withBytes_replies (s : State) (a : Nat) (bs : List Byte) : (s.withBytes a bs).replies = s.replies := rfl

/-! `loadRecord`. -/

@[simp] theorem State.loadRecord_params (s : State) (r : Nat) (l t st c : Word) : (s.loadRecord r l t st c).params = s.params := rfl
@[simp] theorem State.loadRecord_seq (s : State) (r : Nat) (l t st c : Word) : (s.loadRecord r l t st c).seq = s.seq := rfl
@[simp] theorem State.loadRecord_status (s : State) (r : Nat) (l t st c : Word) : (s.loadRecord r l t st c).status = s.status := rfl
@[simp] theorem State.loadRecord_intStatus (s : State) (r : Nat) (l t st c : Word) : (s.loadRecord r l t st c).intStatus = s.intStatus := rfl
@[simp] theorem State.loadRecord_intEnable (s : State) (r : Nat) (l t st c : Word) : (s.loadRecord r l t st c).intEnable = s.intEnable := rfl
@[simp] theorem State.loadRecord_src (s : State) (r : Nat) (l t st c : Word) : (s.loadRecord r l t st c).src = s.src := rfl
@[simp] theorem State.loadRecord_len (s : State) (r : Nat) (l t st c : Word) : (s.loadRecord r l t st c).len = s.len := rfl
@[simp] theorem State.loadRecord_dst (s : State) (r : Nat) (l t st c : Word) : (s.loadRecord r l t st c).dst = s.dst := rfl
@[simp] theorem State.loadRecord_type (s : State) (r : Nat) (l t st c : Word) : (s.loadRecord r l t st c).type = s.type := rfl
@[simp] theorem State.loadRecord_crcState (s : State) (r : Nat) (l t st c : Word) : (s.loadRecord r l t st c).crcState = s.crcState := rfl
@[simp] theorem State.loadRecord_crcResult (s : State) (r : Nat) (l t st c : Word) : (s.loadRecord r l t st c).crcResult = c := rfl
@[simp] theorem State.loadRecord_chunkLen (s : State) (r : Nat) (l t st c : Word) : (s.loadRecord r l t st c).chunkLen = l := rfl
@[simp] theorem State.loadRecord_chunkCrc (s : State) (r : Nat) (l t st c : Word) : (s.loadRecord r l t st c).chunkCrc = st := rfl
@[simp] theorem State.loadRecord_ptype (s : State) (r : Nat) (l t st c : Word) : (s.loadRecord r l t st c).ptype = t := rfl
@[simp] theorem State.loadRecord_typeFlags (s : State) (r : Nat) (l t st c : Word) : (s.loadRecord r l t st c).typeFlags = classify s.params t := rfl
@[simp] theorem State.loadRecord_next (s : State) (r : Nat) (l t st c : Word) : (s.loadRecord r l t st c).next = word32 (r + recordSize l.toNat) := rfl
@[simp] theorem State.loadRecord_chunkCount (s : State) (r : Nat) (l t st c : Word) : (s.loadRecord r l t st c).chunkCount = s.chunkCount := rfl
@[simp] theorem State.loadRecord_errOff (s : State) (r : Nat) (l t st c : Word) : (s.loadRecord r l t st c).errOff = s.errOff := rfl
@[simp] theorem State.loadRecord_buf (s : State) (r : Nat) (l t st c : Word) : (s.loadRecord r l t st c).buf = s.buf := rfl
@[simp] theorem State.loadRecord_draws (s : State) (r : Nat) (l t st c : Word) : (s.loadRecord r l t st c).draws = s.draws := rfl
@[simp] theorem State.loadRecord_moves (s : State) (r : Nat) (l t st c : Word) : (s.loadRecord r l t st c).moves = s.moves := rfl
@[simp] theorem State.loadRecord_replies (s : State) (r : Nat) (l t st c : Word) : (s.loadRecord r l t st c).replies = s.replies := rfl

/-! `resetCsrs`. -/

@[simp] theorem State.resetCsrs_params (s : State) : (s.resetCsrs).params = s.params := rfl
@[simp] theorem State.resetCsrs_seq (s : State) : (s.resetCsrs).seq = .idle := rfl
@[simp] theorem State.resetCsrs_status (s : State) : (s.resetCsrs).status = 0 := rfl
@[simp] theorem State.resetCsrs_intStatus (s : State) : (s.resetCsrs).intStatus = 0 := rfl
@[simp] theorem State.resetCsrs_intEnable (s : State) : (s.resetCsrs).intEnable = 0 := rfl
@[simp] theorem State.resetCsrs_src (s : State) : (s.resetCsrs).src = 0 := rfl
@[simp] theorem State.resetCsrs_len (s : State) : (s.resetCsrs).len = 0 := rfl
@[simp] theorem State.resetCsrs_dst (s : State) : (s.resetCsrs).dst = 0 := rfl
@[simp] theorem State.resetCsrs_type (s : State) : (s.resetCsrs).type = 0 := rfl
@[simp] theorem State.resetCsrs_crcState (s : State) : (s.resetCsrs).crcState = 0xFFFFFFFF#32 := rfl
@[simp] theorem State.resetCsrs_crcResult (s : State) : (s.resetCsrs).crcResult = 0 := rfl
@[simp] theorem State.resetCsrs_chunkLen (s : State) : (s.resetCsrs).chunkLen = 0 := rfl
@[simp] theorem State.resetCsrs_chunkCrc (s : State) : (s.resetCsrs).chunkCrc = 0 := rfl
@[simp] theorem State.resetCsrs_ptype (s : State) : (s.resetCsrs).ptype = 0 := rfl
@[simp] theorem State.resetCsrs_typeFlags (s : State) : (s.resetCsrs).typeFlags = 0 := rfl
@[simp] theorem State.resetCsrs_next (s : State) : (s.resetCsrs).next = 0 := rfl
@[simp] theorem State.resetCsrs_chunkCount (s : State) : (s.resetCsrs).chunkCount = 0 := rfl
@[simp] theorem State.resetCsrs_errOff (s : State) : (s.resetCsrs).errOff = 0 := rfl
@[simp] theorem State.resetCsrs_buf (s : State) : (s.resetCsrs).buf = s.buf := rfl
@[simp] theorem State.resetCsrs_draws (s : State) : (s.resetCsrs).draws = s.draws := rfl
@[simp] theorem State.resetCsrs_moves (s : State) : (s.resetCsrs).moves = s.moves := rfl
@[simp] theorem State.resetCsrs_replies (s : State) : (s.resetCsrs).replies = s.replies := rfl

/-! `withMoves`. -/

@[simp] theorem State.withMoves_params (s : State) (ms : List Move) : (s.withMoves ms).params = s.params := rfl
@[simp] theorem State.withMoves_seq (s : State) (ms : List Move) : (s.withMoves ms).seq = s.seq := rfl
@[simp] theorem State.withMoves_status (s : State) (ms : List Move) : (s.withMoves ms).status = s.status := rfl
@[simp] theorem State.withMoves_intStatus (s : State) (ms : List Move) : (s.withMoves ms).intStatus = s.intStatus := rfl
@[simp] theorem State.withMoves_intEnable (s : State) (ms : List Move) : (s.withMoves ms).intEnable = s.intEnable := rfl
@[simp] theorem State.withMoves_src (s : State) (ms : List Move) : (s.withMoves ms).src = s.src := rfl
@[simp] theorem State.withMoves_len (s : State) (ms : List Move) : (s.withMoves ms).len = s.len := rfl
@[simp] theorem State.withMoves_dst (s : State) (ms : List Move) : (s.withMoves ms).dst = s.dst := rfl
@[simp] theorem State.withMoves_type (s : State) (ms : List Move) : (s.withMoves ms).type = s.type := rfl
@[simp] theorem State.withMoves_crcState (s : State) (ms : List Move) : (s.withMoves ms).crcState = s.crcState := rfl
@[simp] theorem State.withMoves_crcResult (s : State) (ms : List Move) : (s.withMoves ms).crcResult = s.crcResult := rfl
@[simp] theorem State.withMoves_chunkLen (s : State) (ms : List Move) : (s.withMoves ms).chunkLen = s.chunkLen := rfl
@[simp] theorem State.withMoves_chunkCrc (s : State) (ms : List Move) : (s.withMoves ms).chunkCrc = s.chunkCrc := rfl
@[simp] theorem State.withMoves_ptype (s : State) (ms : List Move) : (s.withMoves ms).ptype = s.ptype := rfl
@[simp] theorem State.withMoves_typeFlags (s : State) (ms : List Move) : (s.withMoves ms).typeFlags = s.typeFlags := rfl
@[simp] theorem State.withMoves_next (s : State) (ms : List Move) : (s.withMoves ms).next = s.next := rfl
@[simp] theorem State.withMoves_chunkCount (s : State) (ms : List Move) : (s.withMoves ms).chunkCount = s.chunkCount := rfl
@[simp] theorem State.withMoves_errOff (s : State) (ms : List Move) : (s.withMoves ms).errOff = s.errOff := rfl
@[simp] theorem State.withMoves_buf (s : State) (ms : List Move) : (s.withMoves ms).buf = s.buf := rfl
@[simp] theorem State.withMoves_draws (s : State) (ms : List Move) : (s.withMoves ms).draws = s.draws := rfl
@[simp] theorem State.withMoves_moves (s : State) (ms : List Move) : (s.withMoves ms).moves = ms := rfl
@[simp] theorem State.withMoves_replies (s : State) (ms : List Move) : (s.withMoves ms).replies = s.replies := rfl

/-! `perform`: the state after the access, its response handed over. -/

@[simp] theorem State.perform_params (s : State) (a : Access) : (s.perform a).params = (s.access a).1.params := rfl
@[simp] theorem State.perform_seq (s : State) (a : Access) : (s.perform a).seq = (s.access a).1.seq := rfl
@[simp] theorem State.perform_status (s : State) (a : Access) : (s.perform a).status = (s.access a).1.status := rfl
@[simp] theorem State.perform_intStatus (s : State) (a : Access) : (s.perform a).intStatus = (s.access a).1.intStatus := rfl
@[simp] theorem State.perform_intEnable (s : State) (a : Access) : (s.perform a).intEnable = (s.access a).1.intEnable := rfl
@[simp] theorem State.perform_src (s : State) (a : Access) : (s.perform a).src = (s.access a).1.src := rfl
@[simp] theorem State.perform_len (s : State) (a : Access) : (s.perform a).len = (s.access a).1.len := rfl
@[simp] theorem State.perform_dst (s : State) (a : Access) : (s.perform a).dst = (s.access a).1.dst := rfl
@[simp] theorem State.perform_type (s : State) (a : Access) : (s.perform a).type = (s.access a).1.type := rfl
@[simp] theorem State.perform_crcState (s : State) (a : Access) : (s.perform a).crcState = (s.access a).1.crcState := rfl
@[simp] theorem State.perform_crcResult (s : State) (a : Access) : (s.perform a).crcResult = (s.access a).1.crcResult := rfl
@[simp] theorem State.perform_chunkLen (s : State) (a : Access) : (s.perform a).chunkLen = (s.access a).1.chunkLen := rfl
@[simp] theorem State.perform_chunkCrc (s : State) (a : Access) : (s.perform a).chunkCrc = (s.access a).1.chunkCrc := rfl
@[simp] theorem State.perform_ptype (s : State) (a : Access) : (s.perform a).ptype = (s.access a).1.ptype := rfl
@[simp] theorem State.perform_typeFlags (s : State) (a : Access) : (s.perform a).typeFlags = (s.access a).1.typeFlags := rfl
@[simp] theorem State.perform_next (s : State) (a : Access) : (s.perform a).next = (s.access a).1.next := rfl
@[simp] theorem State.perform_chunkCount (s : State) (a : Access) : (s.perform a).chunkCount = (s.access a).1.chunkCount := rfl
@[simp] theorem State.perform_errOff (s : State) (a : Access) : (s.perform a).errOff = (s.access a).1.errOff := rfl
@[simp] theorem State.perform_buf (s : State) (a : Access) : (s.perform a).buf = (s.access a).1.buf := rfl
@[simp] theorem State.perform_draws (s : State) (a : Access) : (s.perform a).draws = (s.access a).1.draws := rfl
@[simp] theorem State.perform_moves (s : State) (a : Access) : (s.perform a).moves = (s.access a).1.moves := rfl
@[simp] theorem State.perform_replies (s : State) (a : Access) : (s.perform a).replies = (s.access a).2 :: (s.access a).1.replies := rfl

end Sys2Proof.Machine
end

