-- ==== Sys2Proof/Laws/Memory.lean ====
section
/-! SUPPORT. What the BUF operations do: read after write, the canonical form, and byte sequences. -/

namespace Sys2Proof.Machine

open Sys2Proof

/-! Cells. -/

@[simp] theorem bufGet_bufSet_same (m : List Host.Cell) (a : Nat) (b : Byte) : bufGet (bufSet m a b) a = some b := by
  induction m with
  | nil => simp [bufSet, bufGet]
  | cons c m ih =>
    obtain ⟨k, x⟩ := c
    simp only [bufSet]
    split
    · simp [bufGet]
    · split
      · simp [bufGet]
      · simp [bufGet, ih, Ne.symm ‹_›]

theorem bufGet_bufSet_other (m : List Host.Cell) {a x : Nat} (b : Byte) (h : x ≠ a) :
    bufGet (bufSet m a b) x = bufGet m x := by
  induction m with
  | nil => simp [bufSet, bufGet, h.symm]
  | cons c m ih =>
    obtain ⟨k, y⟩ := c
    simp only [bufSet]
    split
    · simp [bufGet, h.symm]
    · split
      · subst_vars; simp [bufGet, h.symm]
      · simp [bufGet, ih]

theorem mem_bufSet {m : List Host.Cell} {a : Nat} {b : Byte} {c : Host.Cell} (h : c ∈ bufSet m a b) :
    c = (a, b) ∨ c ∈ m := by
  induction m with
  | nil => simpa [bufSet] using h
  | cons d m ih =>
    obtain ⟨k, y⟩ := d
    simp only [bufSet] at h
    split at h
    · simpa using h
    · split at h
      · simp only [List.mem_cons] at h ⊢
        tauto
      · simp only [List.mem_cons] at h ⊢
        rcases h with h | h
        · tauto
        · have := ih h
          tauto

/-- Writing one byte keeps the canonical form. -/
theorem bufSet_wf {m : List Host.Cell} (a : Nat) (b : Byte) (h : Memory.wf m) : Memory.wf (bufSet m a b) := by
  induction m with
  | nil => simp [bufSet]
  | cons c m ih =>
    obtain ⟨k, y⟩ := c
    simp only [Memory.wf, List.pairwise_cons] at h
    simp only [bufSet]
    split
    · simp only [Memory.wf, List.pairwise_cons, List.mem_cons]
      refine ⟨?_, h⟩
      rintro c (rfl | hc)
      · assumption
      · have := h.1 c hc
        change a < c.1; change k < c.1 at this
        omega
    · split
      · subst_vars
        simpa only [Memory.wf, List.pairwise_cons] using h
      · simp only [Memory.wf, List.pairwise_cons]
        refine ⟨fun c hc => ?_, ih h.2⟩
        rcases mem_bufSet hc with rfl | hc
        · show k < a
          omega
        · exact h.1 c hc

/-! Byte sequences. -/

/-- Writing a byte sequence keeps the canonical form. -/
theorem bufSetBytes_wf {m : List Host.Cell} (a : Nat) (bs : List Byte) (h : Memory.wf m) :
    Memory.wf (bufSetBytes m a bs) := by
  induction bs generalizing m a with
  | nil => exact h
  | cons b bs ih => exact ih (a + 1) (bufSet_wf a b h)

/-- Every cell after a write is an old one or lies in the written range. -/
theorem mem_bufSetBytes {m : List Host.Cell} {a : Nat} {bs : List Byte} {c : Host.Cell}
    (h : c ∈ bufSetBytes m a bs) : c ∈ m ∨ (a ≤ c.1 ∧ c.1 < a + bs.length) := by
  induction bs generalizing m a with
  | nil => exact .inl h
  | cons b bs ih =>
    simp only [List.length_cons]
    rcases ih h with h | h
    · rcases mem_bufSet h with rfl | h
      · right; simp
      · exact .inl h
    · right; omega

theorem bufGet_bufSetBytes_outside (m : List Host.Cell) {a x : Nat} (bs : List Byte)
    (h : x < a ∨ a + bs.length ≤ x) : bufGet (bufSetBytes m a bs) x = bufGet m x := by
  induction bs generalizing m a with
  | nil => rfl
  | cons b bs ih =>
    simp only [List.length_cons] at h
    rw [bufSetBytes, ih _ (by omega), bufGet_bufSet_other _ _ (by omega)]

theorem bufGet_bufSetBytes_inside (m : List Host.Cell) (a : Nat) (bs : List Byte) {i : Nat} (h : i < bs.length) :
    bufGet (bufSetBytes m a bs) (a + i) = bs[i]? := by
  induction bs generalizing m a i with
  | nil => simp at h
  | cons b bs ih =>
    cases i with
    | zero => rw [bufSetBytes, bufGet_bufSetBytes_outside _ _ (by omega)]; simp
    | succ i =>
      rw [bufSetBytes, show a + (i + 1) = a + 1 + i by omega, ih _ _ (by simpa using h)]
      simp

theorem bufGet_none_of_lt {m : List Host.Cell} {a : Nat} (h : ∀ c ∈ m, a < c.1) : bufGet m a = none := by
  induction m with
  | nil => rfl
  | cons c m ih =>
    obtain ⟨k, y⟩ := c
    have hk := h (k, y) (by simp)
    rw [bufGet, if_neg (by simp only at hk; omega), ih fun c hc => h c (by simp [hc])]

/-- In the canonical form, equal contents are equal data. -/
theorem Memory.wf_ext {m m' : List Host.Cell} (h : Memory.wf m) (h' : Memory.wf m')
    (heq : ∀ a, bufGet m a = bufGet m' a) : m = m' := by
  induction m generalizing m' with
  | nil =>
    cases m' with
    | nil => rfl
    | cons c m' => obtain ⟨k, y⟩ := c; simpa [bufGet] using heq k
  | cons c m ih =>
    obtain ⟨k, y⟩ := c
    simp only [Memory.wf, List.pairwise_cons] at h
    cases m' with
    | nil => simpa [bufGet] using heq k
    | cons c' m' =>
      obtain ⟨k', y'⟩ := c'
      simp only [Memory.wf, List.pairwise_cons] at h'
      have hk : k = k' := by
        rcases Nat.lt_trichotomy k k' with hlt | rfl | hlt
        · have hn : bufGet m' k = none := bufGet_none_of_lt fun c hc => by have : k' < c.1 := h'.1 c hc; omega
          have := heq k
          simp [bufGet, hn, show k' ≠ k by omega] at this
        · rfl
        · have hn : bufGet m k' = none := bufGet_none_of_lt fun c hc => by have : k < c.1 := h.1 c hc; omega
          have := heq k'
          simp [bufGet, hn, show k ≠ k' by omega] at this
      subst hk
      have hy : y = y' := by simpa [bufGet] using heq k
      subst hy
      have hm : bufGet m k = none := bufGet_none_of_lt fun c hc => h.1 c hc
      have hm' : bufGet m' k = none := bufGet_none_of_lt fun c hc => h'.1 c hc
      rw [ih h.2 h'.2 fun a => ?_]
      by_cases ha : k = a
      · subst ha; rw [hm, hm']
      · simpa [bufGet, ha] using heq a

/-! Bytes of the state. -/

@[simp] theorem State.bytesAt_length (s : State) (a n : Nat) : (s.bytesAt a n).length = n := by
  induction n generalizing a with
  | zero => rfl
  | succ n ih => simp [State.bytesAt, ih]

theorem State.bytesAt_getElem? (s : State) (a : Nat) {n i : Nat} (h : i < n) :
    (s.bytesAt a n)[i]? = some (s.byteAt (a + i)) := by
  induction n generalizing a i with
  | zero => omega
  | succ n ih =>
    cases i with
    | zero => rfl
    | succ i =>
      rw [State.bytesAt, List.getElem?_cons_succ, ih (a + 1) (by omega)]
      congr 2
      omega

/-- A byte sequence of BUF is cut anywhere. -/
theorem State.bytesAt_add (s : State) (a m n : Nat) : s.bytesAt a (m + n) = s.bytesAt a m ++ s.bytesAt (a + m) n := by
  induction m generalizing a with
  | zero => simp [State.bytesAt]
  | succ m ih =>
    rw [show m + 1 + n = (m + n) + 1 by omega, State.bytesAt, ih, State.bytesAt,
      show a + 1 + m = a + (m + 1) by omega]
    rfl

/-- States whose bytes agree on a range read the same sequence there. -/
theorem State.bytesAt_congr {s t : State} {a n : Nat} (h : ∀ x, a ≤ x → x < a + n → s.byteAt x = t.byteAt x) :
    s.bytesAt a n = t.bytesAt a n := by
  induction n generalizing a with
  | zero => rfl
  | succ n ih =>
    rw [State.bytesAt, State.bytesAt, h a (by omega) (by omega), ih fun x h1 h2 => h x (by omega) (by omega)]

/-- A byte outside the written range is unchanged. -/
theorem State.byteAt_withBytes_outside (s : State) {a x : Nat} (bs : List Byte) (h : x < a ∨ a + bs.length ≤ x) :
    (s.withBytes a bs).byteAt x = s.byteAt x := by
  simp only [State.byteAt, State.withBytes_buf, bufGet_bufSetBytes_outside _ _ h]

/-- A byte of the written range is the byte written. -/
theorem State.byteAt_withBytes_inside (s : State) (a : Nat) (bs : List Byte) {i : Nat} (h : i < bs.length) :
    (s.withBytes a bs).byteAt (a + i) = bs[i] := by
  simp only [State.byteAt, State.withBytes_buf, bufGet_bufSetBytes_inside _ _ _ h, List.getElem?_eq_getElem h,
    Option.getD_some]

/-- Reading back a written sequence. -/
theorem State.bytesAt_withBytes_same (s : State) (a : Nat) (bs : List Byte) :
    (s.withBytes a bs).bytesAt a bs.length = bs := by
  apply List.ext_getElem?
  intro i
  by_cases h : i < bs.length
  · rw [State.bytesAt_getElem? _ _ h, State.byteAt_withBytes_inside _ _ _ h, List.getElem?_eq_getElem h]
  · rw [List.getElem?_eq_none (by simpa using h), List.getElem?_eq_none (by simpa using h)]

/-- A sequence that shares no byte with the written range is unchanged. -/
theorem State.bytesAt_withBytes_outside (s : State) {a x n : Nat} (bs : List Byte)
    (h : x + n ≤ a ∨ a + bs.length ≤ x) : (s.withBytes a bs).bytesAt x n = s.bytesAt x n :=
  State.bytesAt_congr fun _ h1 h2 => State.byteAt_withBytes_outside s bs (by omega)

@[simp] theorem freeBytes_length (d n : Nat) : (freeBytes d n).length = n := by
  induction n generalizing d with
  | zero => rfl
  | succ n ih => simp [freeBytes, ih]

theorem freeBytes_getElem (d n : Nat) {i : Nat} (h : i < (freeBytes d n).length) :
    (freeBytes d n)[i] = Config.freeByte (d + i) := by
  induction n generalizing d i with
  | zero => simp at h
  | succ n ih =>
    cases i with
    | zero => rfl
    | succ i =>
      simp only [freeBytes, List.getElem_cons_succ]
      rw [ih]
      congr 1
      omega

/-- BUF lists no byte after power-on. -/
theorem State.powerOn_buf_wf (p : Params) : Memory.wf (State.powerOn p).buf := List.Pairwise.nil

end Sys2Proof.Machine
end

