-- ==== Sys2Proof/Laws/Flags.lean ====
section
/-! SUPPORT. The bits of the STATUS and INT_STATUS updates, one lemma per update, and byte order. -/

namespace Sys2Proof.Machine

open Sys2Proof

/-- BUSY written, every other bit kept. -/
theorem statusWithBusy_getLsbD (st : Word) (b : Bool) (i : Nat) :
    (statusWithBusy st b).getLsbD i = if i = 0 then b else st.getLsbD i := by
  simp only [statusWithBusy, BitVec.getLsbD_append, BitVec.getLsbD_extractLsb']
  rcases i with _ | i
  · simp
  · by_cases h : i < 31
    · simp [h, Nat.add_comm]
    · simp [h, BitVec.getLsbD_of_ge st (i + 1) (by omega)]

/-- ERR written, every other bit kept. -/
theorem statusWithErr_getLsbD (st : Word) (b : Bool) (i : Nat) :
    (statusWithErr st b).getLsbD i = if i = 1 then b else st.getLsbD i := by
  simp only [statusWithErr, BitVec.getLsbD_append, BitVec.getLsbD_extractLsb']
  rcases i with _ | _ | i
  · simp
  · simp
  · by_cases h : i < 30
    · simp [h, show 2 + i = i + 1 + 1 by omega]
    · simp [h, BitVec.getLsbD_of_ge st (i + 2) (by omega)]

/-- ERR_CODE written, every other bit kept. -/
theorem statusWithErrCode_getLsbD (st : Word) (c : BitVec 4) (i : Nat) :
    (statusWithErrCode st c).getLsbD i = if 8 ≤ i ∧ i < 12 then c.getLsbD (i - 8) else st.getLsbD i := by
  simp only [statusWithErrCode, BitVec.getLsbD_append, BitVec.getLsbD_extractLsb']
  by_cases h8 : i < 8
  · simp [h8, show ¬ 8 ≤ i by omega]
  · by_cases h12 : i < 12
    · simp [h8, h12, show 8 ≤ i by omega, show i - 8 < 4 by omega]
    · simp only [h8, if_false, show ¬ i - 8 < 4 by omega, show ¬ (8 ≤ i ∧ i < 12) by omega,
        show 12 + (i - 8 - 4) = i by omega]
      by_cases h : i < 32
      · simp [show i - 8 - 4 < 20 by omega]
      · simp [show ¬ i - 8 - 4 < 20 by omega, BitVec.getLsbD_of_ge st i (by omega)]

/-- LAST_OP written, every other bit kept. -/
theorem statusWithLastOp_getLsbD (st : Word) (op : Byte) (i : Nat) :
    (statusWithLastOp st op).getLsbD i = if 16 ≤ i ∧ i < 24 then op.getLsbD (i - 16) else st.getLsbD i := by
  simp only [statusWithLastOp, BitVec.getLsbD_append, BitVec.getLsbD_extractLsb']
  by_cases h8 : i < 16
  · simp [h8, show ¬ 16 ≤ i by omega]
  · by_cases h12 : i < 24
    · simp [h8, h12, show 16 ≤ i by omega, show i - 16 < 8 by omega]
    · simp only [h8, if_false, show ¬ i - 16 < 8 by omega, show ¬ (16 ≤ i ∧ i < 24) by omega,
        show 24 + (i - 16 - 8) = i by omega]
      by_cases h : i < 32
      · simp [show i - 16 - 8 < 8 by omega]
      · simp [show ¬ i - 16 - 8 < 8 by omega, BitVec.getLsbD_of_ge st i (by omega)]

/-- STATUS at acceptance, bit by bit (10_state.md R52). -/
theorem statusAccepted_getLsbD (st w : Word) (i : Nat) :
    (statusAccepted st w).getLsbD i =
      if i = 0 then true else if 16 ≤ i ∧ i < 24 then w.getLsbD (i - 16) else st.getLsbD i := by
  rw [statusAccepted, statusWithBusy_getLsbD, statusWithLastOp_getLsbD]
  by_cases h : 16 ≤ i ∧ i < 24
  · simp [h, show i - 16 < 8 by omega]
  · simp [h]

/-- STATUS at completion, bit by bit (60_exceptions.md R210). -/
theorem statusCompleted_getLsbD (st : Word) (e : ErrCode) (i : Nat) :
    (statusCompleted st e).getLsbD i =
      if i = 0 then false else if i = 1 then (e.code != 0)
      else if 8 ≤ i ∧ i < 12 then e.code.getLsbD (i - 8) else st.getLsbD i := by
  rw [statusCompleted, statusWithBusy_getLsbD, statusWithErr_getLsbD, statusWithErrCode_getLsbD]

/-- Bit `i` of the INT_STATUS bits is 1 only at its own place. -/
theorem intDone_getLsbD (i : Nat) : intDone.getLsbD i = decide (i = 0) := by
  rcases i with _ | i
  · rfl
  · simp [intDone, BitVec.getLsbD_one]

theorem intErr_getLsbD (i : Nat) : intErr.getLsbD i = decide (i = 1) := by
  by_cases h : i < 32
  · interval_cases i <;> rfl
  · rw [BitVec.getLsbD_of_ge _ _ (by omega)]; simp; omega

theorem intOvr_getLsbD (i : Nat) : intOvr.getLsbD i = decide (i = 2) := by
  by_cases h : i < 32
  · interval_cases i <;> rfl
  · rw [BitVec.getLsbD_of_ge _ _ (by omega)]; simp; omega

/-- INT_STATUS at completion, bit by bit (60_exceptions.md R210). -/
theorem intCompleted_getLsbD (int : Word) (e : ErrCode) (i : Nat) :
    (intCompleted int e).getLsbD i =
      (int.getLsbD i || decide (i = 0) || (decide (i = 1) && (e.code != 0))) := by
  rw [intCompleted]
  split
  · rename_i h
    simp [h, intDone_getLsbD]
  · rename_i h
    have h' : (e.code != 0) = true := by simpa using h
    rw [h']
    simp [intDone_getLsbD, intErr_getLsbD]

/-- The error codes are distinct. -/
theorem ErrCode.code_injective : Function.Injective ErrCode.code := by
  intro a b h
  cases a <;> cases b <;> first | rfl | exact absurd h (by decide)

@[simp] theorem bytes32_length (v : Word) : (bytes32 v).length = 4 := rfl

@[simp] theorem sig_length : sig.length = 8 := rfl

@[simp] theorem recordBytes_length (t : Word) (d : List Byte) : (recordBytes t d).length = recordSize d.length := by
  simp [recordBytes, recordSize]
  omega

end Sys2Proof.Machine
end

