-- ==== Sys2Proof/Laws/Ops.lean ====
section
/-! SUPPORT. What each shared operation can do, one lemma per operation; later proofs cite these instead of unfolding it. -/

namespace Sys2Proof.Machine

open Sys2Proof

/-- MemRead in range continues with the bytes. -/
theorem State.reading_eq {s : State} {a n : Nat} (h : s.inBuf a n) (k : List Byte → Result) :
    s.reading a n k = k (s.bytesAt a n) := if_pos h

/-- MemWrite in range continues with the bytes stored. -/
theorem State.storing_eq {s : State} {a : Nat} {bs : List Byte} (h : s.inBuf a bs.length) (k : State → Result) :
    s.storing a bs k = k (s.withBytes a bs) := if_pos h

/-- frame in range continues with its result. -/
theorem State.framing_eq {s : State} {r avail : Nat} (h : s.inBuf r avail) (k : Framed → Result) :
    s.framing r avail k = k (s.frame r avail) := if_pos h

/-- The signature checks answer one of three ways. -/
theorem State.checkingSig_cases {s : State} (h : s.inBuf s.src.toNat s.len.toNat) (k : Result) :
    (s.len.toNat < 8 ∧ s.checkingSig k = s.raiseAt .truncated s.src.toNat) ∨
    (8 ≤ s.len.toNat ∧ s.bytesAt s.src.toNat 8 = sig ∧ s.checkingSig k = k) ∨
    (8 ≤ s.len.toNat ∧ s.bytesAt s.src.toNat 8 ≠ sig ∧ s.checkingSig k = s.raiseAt .badSignature s.src.toNat) := by
  unfold State.checkingSig
  by_cases h8 : s.len.toNat < 8
  · exact .inl ⟨h8, if_pos h8⟩
  · have h8' : s.inBuf s.src.toNat 8 := by simp only [State.inBuf] at h ⊢; omega
    rw [if_neg h8, State.reading_eq h8']
    by_cases hs : s.bytesAt s.src.toNat 8 = sig
    · exact .inr (.inl ⟨by omega, hs, if_pos hs⟩)
    · exact .inr (.inr ⟨by omega, hs, if_neg hs⟩)

/-- `frame` answers Truncated, or a record that lies in the available bytes. -/
theorem State.frame_cases (s : State) (r avail : Nat) :
    s.frame r avail = .truncated ∨
    ∃ len type stored computed, s.frame r avail = .record len type stored computed ∧
      recordSize len.toNat ≤ avail ∧
      len = be32 (s.bytesAt r 4) ∧ type = be32 (s.bytesAt (r + 4) 4) ∧
      stored = be32 (s.bytesAt (r + 8 + len.toNat) 4) ∧
      computed = crcChunk type (s.bytesAt (r + 8) len.toNat) := by
  unfold State.frame
  split
  · exact .inl rfl
  · split
    · exact .inl rfl
    · exact .inr ⟨_, _, _, _, rfl, by omega, rfl, rfl, rfl, rfl⟩

/-- A dropped write sets OVR; otherwise the write takes effect. -/
theorem State.unlessBusy_cases (s t : State) :
    (s.seq.isBusy = true ∧ s.unlessBusy t = { s with intStatus := s.intStatus ||| intOvr }) ∨
    (s.seq.isBusy = false ∧ s.unlessBusy t = t) := by
  unfold State.unlessBusy
  cases s.seq.isBusy
  · exact .inr ⟨rfl, rfl⟩
  · exact .inl ⟨rfl, rfl⟩

/-- An aborted command changes BUF in its store range only, by fresh draws. -/
theorem State.abort_cases (s : State) :
    s.abort = s ∨ ∃ w d n, s.seq = .busy w ∧ s.storeRange (decodeCommand w) = some (d, n) ∧
      s.abort = { s.withBytes d (freeBytes s.draws n) with draws := s.draws + n } := by
  unfold State.abort
  split
  · exact .inl rfl
  · split
    · exact .inl rfl
    · exact .inr ⟨_, _, _, ‹_›, ‹_›, rfl⟩

/-- A store range lies in BUF. -/
theorem State.storeRange_inBuf {s : State} {i : Instr} {d n : Nat} (h : s.storeRange i = some (d, n)) : s.inBuf d n := by
  cases i <;> simp only [State.storeRange, reduceCtorEq] at h
  case chunkSerialize =>
    split at h
    · rename_i hc
      obtain ⟨rfl, rfl⟩ : s.dst.toNat = d ∧ recordSize s.len.toNat = n := by simpa using h
      exact hc.1.2
    · simp at h
  case sigWrite =>
    split at h
    · rename_i hc
      obtain ⟨rfl, rfl⟩ : s.dst.toNat = d ∧ 8 = n := by simpa using h
      exact hc
    · simp at h

/-! The ports. -/

@[simp] theorem csrAt_offset (r : Csr) : csrAt r.offset = some r := by cases r <;> rfl

/-- Every defined offset is a legal one. -/
theorem csrLegal_offset (r : Csr) : csrLegal r.offset 4 := by cases r <;> decide

/-- Offsets from 0x54 on are reserved. -/
theorem csrAt_reserved {off : Nat} (h : 0x54 ≤ off) : csrAt off = none := by
  unfold csrAt
  split <;> first | rfl | omega

/-- `csrr NAME` is a host read of that register. -/
theorem State.access_csrr (s : State) (r : Csr) : s.access (csrr r) = s.hostReadCsr r := by
  simp only [State.access, csrr, State.csrAccess, if_pos (csrLegal_offset r), csrAt_offset]

/-- `csrw NAME, v` is a host write of that register. -/
theorem State.access_csrw (s : State) (r : Csr) (d : Word) : s.access (csrw r d) = (s.hostWriteCsr r d, .written) := by
  simp only [State.access, csrw, State.csrAccess, if_pos (csrLegal_offset r), csrAt_offset]

/-- A reserved offset reads as 0 and ignores writes. -/
theorem State.access_reserved (s : State) {off : Nat} (h4 : off % 4 = 0) (hr : 0x54 ≤ off) (h : off < 0x100) (dir : Dir) :
    s.access { port := .csr, offset := off, width := 4, dir := dir } =
      (s, match dir with | .read => .word 0 | .write _ => .written) := by
  have hl : csrLegal off 4 := ⟨rfl, h4, h⟩
  cases dir <;> simp only [State.access, State.csrAccess, if_pos hl, csrAt_reserved hr]

/-- Every BUF access while BUSY gets BUSERR. -/
theorem State.bufAccess_busy {s : State} (h : s.seq.isBusy = true) (off width : Nat) (dir : Dir) :
    s.bufAccess off width dir = s.busError dir := by
  simp [State.bufAccess, h]

/-- A legal BUF access while IDLE. -/
theorem State.bufAccess_legal {s : State} {off width : Nat} (hb : s.seq = .idle) (hl : s.bufLegal off width) (dir : Dir) :
    s.bufAccess off width dir =
      match dir with
      | .read => (s, s.bufRead off width)
      | .write d => (s.bufWrite off width d, .written) := by
  unfold State.bufAccess
  exact if_pos ⟨by simp [hb, Seq.isBusy], hl⟩

/-- An illegal BUF access gets BUSERR. -/
theorem State.bufAccess_illegal {s : State} {off width : Nat} (hl : ¬ s.bufLegal off width) (dir : Dir) :
    s.bufAccess off width dir = s.busError dir := by
  unfold State.bufAccess
  exact if_neg fun h => hl h.2

/-- What a host access can do to the block: nothing but a draw, one register or INT_STATUS, acceptance, soft reset, or a BUF write while IDLE. -/
theorem State.access_cases (s : State) (a : Access) :
    (s.access a).1 = s ∨ (s.access a).1 = { s with draws := s.draws + 1 } ∨
    (∃ r d, (s.access a).1 = s.hostWriteCsr r d) ∨
    (s.seq.isBusy = false ∧ ∃ off bs, s.inBuf off bs.length ∧ (s.access a).1 = s.withBytes off bs) := by
  obtain ⟨port, off, width, dir⟩ := a
  cases port with
  | csr =>
    simp only [State.access, State.csrAccess]
    split
    · split
      · simp only [State.hostReadCsr]
        split
        · exact .inr (.inl rfl)
        · exact .inl rfl
      · exact .inr (.inr (.inl ⟨_, _, rfl⟩))
      · exact .inl rfl
      · exact .inl rfl
    · cases dir
      · exact .inr (.inl rfl)
      · exact .inl rfl
  | buf =>
    simp only [State.access, State.bufAccess]
    split
    · obtain ⟨hb, hl⟩ := ‹_ ∧ _›
      cases dir with
      | read => exact .inl rfl
      | write d =>
        refine .inr (.inr (.inr ⟨by simpa using hb, ?_⟩))
        simp only [State.bufWrite]
        split
        · refine ⟨off, [d.extractLsb' 0 8], ?_, rfl⟩
          rcases hl with ⟨_, h1⟩ | ⟨h4, _, _⟩
          · exact h1
          · omega
        · refine ⟨off, bytes32 d, ?_, rfl⟩
          rcases hl with ⟨h1, _⟩ | ⟨_, _, h4⟩
          · contradiction
          · exact h4
    · cases dir
      · exact .inr (.inl rfl)
      · exact .inl rfl

/-- What a step does: the completion of an accepted word, or a host move. -/
theorem step_eq (s : State) :
    (∃ w t, s.turn = .completes w t ∧ step s = exec (decodeCommand w) t) ∨ (∃ t, s.turn = .moved t ∧ step s = .next t) := by
  unfold step
  cases h : s.turn with
  | completes w t => exact .inl ⟨w, t, rfl, rfl⟩
  | moved t => exact .inr ⟨t, rfl, rfl⟩

end Sys2Proof.Machine
end

