-- ==== Sys2Proof/Laws/PerInstr.lean ====
section
/-! SUPPORT. The per-instruction family of LAWS.json: the reserved field of a defined command's word (30_encoding.md R81). -/

namespace Sys2Proof.Laws.ReservedZero

open Sys2Proof

/-- A command whose reserved field is not zero is an illegal word, carried by `badCommand`. -/
def Statement (i : Instr) : Prop :=
  i.wellFormed = true → reservedField (encodeCommand i) = 0 ∨ i = .badCommand (encodeCommand i)

theorem nop : Statement .nop := fun _ => .inl (by decide)
theorem crcInit : Statement .crcInit := fun _ => .inl (by decide)
theorem crcUpdate : Statement .crcUpdate := fun _ => .inl (by decide)
theorem crcFinal : Statement .crcFinal := fun _ => .inl (by decide)
theorem chunkNew : Statement .chunkNew := fun _ => .inl (by decide)
theorem typeClassify : Statement .typeClassify := fun _ => .inl (by decide)
theorem typeCheckText : Statement .typeCheckText := fun _ => .inl (by decide)
theorem chunkParse : Statement .chunkParse := fun _ => .inl (by decide)
theorem chunkSerialize : Statement .chunkSerialize := fun _ => .inl (by decide)
theorem sigCheck : Statement .sigCheck := fun _ => .inl (by decide)
theorem sigWrite : Statement .sigWrite := fun _ => .inl (by decide)
theorem streamParse : Statement .streamParse := fun _ => .inl (by decide)
theorem badCommand (w : Word) : Statement (.badCommand w) := fun _ => .inr rfl

end Sys2Proof.Laws.ReservedZero
end

