-- ==== Sys2Proof/Tests/Slice0.lean ====
section
/-! SUPPORT. Tests of the model on small states, one step each, and the witnesses of the statements' hypotheses.
Expected values come from spec/95_test_vectors.md (V-...), spec/30_encoding.md R83 and R92, or the examples of the command rules. -/

namespace Sys2Proof.Tests

open Sys2Proof Sys2Proof.Machine

/-! ## Helpers -/

/-- The reset state with operands, and bytes stored in BUF at an offset. -/
def stateOf (src len dst : Nat) (type : Word) (at' : Nat) (bytes : List Byte) : State :=
  { State.reset.withBytes at' bytes with
    src := BitVec.ofNat 32 src, len := BitVec.ofNat 32 len, dst := BitVec.ofNat 32 dst, type := type }

/-- Something read from the state a command leaves. -/
def after {α : Type} (i : Instr) (s : State) (f : State → α) : Option α :=
  match exec i s with
  | .next t => some (f t)
  | .fault _ => none
  | .refused _ => none

/-- "hello". -/
def hello : List Byte := [0x68#8, 0x65#8, 0x6C#8, 0x6C#8, 0x6F#8]

/-- The "ruSt"/"hello" record of V-C1. -/
def helloRecord : List Byte :=
  [0x00#8, 0x00#8, 0x00#8, 0x05#8, 0x72#8, 0x75#8, 0x53#8, 0x74#8] ++ hello ++ [0xAE#8, 0x50#8, 0x8D#8, 0x6F#8]

/-- The IEND record of V-C5d and V-S1. -/
def iendRecord : List Byte :=
  [0x00#8, 0x00#8, 0x00#8, 0x00#8, 0x49#8, 0x45#8, 0x4E#8, 0x44#8, 0xAE#8, 0x42#8, 0x60#8, 0x82#8]

/-- "ruSt". -/
def ruSt : Word := 0x72755374#32

/-- The state of V-C1: the record at 0x100, `len` bytes available. -/
def parseState (len : Nat) : State := stateOf 0x100 len 0 0 0x100 helloRecord

/-- The state of V-C6 to V-C13: "hello" at 0, and the three operands. -/
def serializeState (src len dst : Nat) : State := stateOf src len dst ruSt 0 hello

/-- The state of V-S6: SIG, an IEND record and five more bytes at 0x300. -/
def streamState (len : Nat) : State :=
  stateOf 0x300 len 0 0 0x300
    ([0x89#8, 0x50#8, 0x4E#8, 0x47#8, 0x0D#8, 0x0A#8, 0x1A#8, 0x0A#8] ++ iendRecord ++ [0#8, 0#8, 0#8, 0#8, 0#8])

/-- A BUSY state: CHUNK_SERIALIZE accepted with SRC = 0, LEN = 5, DST = 0x100 (V-H9). -/
def busyState : State := (serializeState 0 5 0x100).accept 0x21#32

/-! ## Well-formedness -/

theorem test_wellFormed_refuses_defined_word : (Instr.badCommand 0x20#32).wellFormed = false := by decide
theorem test_wellFormed_refuses_every_defined_word :
    definedWords.map (fun w => (Instr.badCommand w).wellFormed) = List.replicate 12 false := by decide
theorem test_wellFormed_admits_illegal_word :
    (Instr.badCommand 0x05#32).wellFormed = true ∧ (Instr.badCommand 0x100#32).wellFormed = true := by decide

/-! ## Decoding: each word bit by bit from 30_encoding.md R81 and R83, RSV 31:8 then OPCODE 7:0 -/

theorem test_decode_nop : decodeCommand 0b000000000000000000000000_00000000#32 = .nop := by decide
theorem test_decode_crcInit : decodeCommand 0b000000000000000000000000_00000001#32 = .crcInit := by decide
theorem test_decode_crcUpdate : decodeCommand 0b000000000000000000000000_00000010#32 = .crcUpdate := by decide
theorem test_decode_crcFinal : decodeCommand 0b000000000000000000000000_00000011#32 = .crcFinal := by decide
theorem test_decode_chunkNew : decodeCommand 0b000000000000000000000000_00000100#32 = .chunkNew := by decide
theorem test_decode_typeClassify : decodeCommand 0b000000000000000000000000_00010000#32 = .typeClassify := by decide
theorem test_decode_typeCheckText : decodeCommand 0b000000000000000000000000_00010001#32 = .typeCheckText := by decide
theorem test_decode_chunkParse : decodeCommand 0b000000000000000000000000_00100000#32 = .chunkParse := by decide
theorem test_decode_chunkSerialize : decodeCommand 0b000000000000000000000000_00100001#32 = .chunkSerialize := by decide
theorem test_decode_sigCheck : decodeCommand 0b000000000000000000000000_00110000#32 = .sigCheck := by decide
theorem test_decode_sigWrite : decodeCommand 0b000000000000000000000000_00110001#32 = .sigWrite := by decide
theorem test_decode_streamParse : decodeCommand 0b000000000000000000000000_00110010#32 = .streamParse := by decide
theorem test_decode_badCommand_opcode :
    decodeCommand 0b000000000000000000000000_11111111#32 = .badCommand 0xFF#32 := by decide
theorem test_decode_badCommand_reserved_bit :
    decodeCommand 0b000000000000000000000001_00000000#32 = .badCommand 0x100#32 := by decide
theorem test_decode_badCommand_top_reserved_bit :
    decodeCommand 0b100000000000000000000000_00100000#32 = .badCommand 0x80000020#32 := by decide
/-- 30_encoding.md R86: a command is one word of 32 bits. -/
theorem test_decode_rejects_longer_word : decodeTableWord 40 0x20 = none ∧ decodeTableWord 32 0x20 = some .chunkParse := by
  decide
/-- The placed word runs as the very next step: LAST_OP and DONE of V-K2. -/
theorem test_withFetchWord_runs :
    (match step (State.reset.withFetchWord 32 0xFF) with
      | .next t => some (t.status, t.intStatus)
      | .fault _ => none
      | .refused _ => none) = some (0x00FF0602#32, 0x3#32) := by decide

/-! ## Control (95_test_vectors.md section 2.5) -/

/-- R180 example: STATUS 0x00200402 before, NOP accepted and completed. -/
theorem test_nop_clears_error :
    after .nop ({ State.reset with status := 0x00200402#32, intStatus := 0x2#32 }.accept 0x00#32)
      (fun t => (t.status, t.intStatus)) = some (0x00000000#32, 0x3#32) := by decide
/-- V-K3. -/
theorem test_badCommand_reserved_bit :
    after (.badCommand 0x100#32) (State.reset.accept 0x100#32) (fun t => (t.status, t.intStatus)) =
      some (0x00000602#32, 0x3#32) := by decide
/-- V-K4. -/
theorem test_badCommand_opcode :
    after (.badCommand 0x05#32) (State.reset.accept 0x05#32) (fun t => (t.status, t.errOff)) =
      some (0x00050602#32, 0#32) := by decide

/-! ## CRC engine (section 2.2) -/

/-- V-R12. -/
theorem test_crcInit :
    after .crcInit { State.reset with crcState := 0x12345678#32, crcResult := 7#32 } (fun t => (t.crcState, t.crcResult)) =
      some (0xFFFFFFFF#32, 7#32) := by decide
/-- V-R13. -/
theorem test_crcUpdate :
    after .crcUpdate (stateOf 0 4 0 0 0 [0x31#8, 0x32#8, 0x33#8, 0x34#8]) (fun t => (t.crcState, statusErrCode t.status)) =
      some (0x641C1F5C#32, 0#4) := by decide +kernel
/-- V-R14 and V-R15: LEN = 0 at P_BUF_BYTES and past it, and a sum that does not wrap. -/
theorem test_crcUpdate_range :
    after .crcUpdate (stateOf 1024 0 0 0 0 []) (fun t => (t.crcState, statusErrCode t.status)) = some (0xFFFFFFFF#32, 0#4) ∧
    after .crcUpdate (stateOf 1025 0 0 0 0 []) (fun t => (t.crcState, statusErrCode t.status)) = some (0xFFFFFFFF#32, 7#4) ∧
    after .crcUpdate (stateOf 0xFFFFFFF0 0x20 0 0 0 []) (fun t => (t.crcState, statusErrCode t.status)) =
      some (0xFFFFFFFF#32, 7#4) := by decide +kernel
/-- R124 example: after folding "123456789". -/
theorem test_crcFinal :
    after .crcFinal { State.reset with crcState := 0x340BC6D9#32 } (fun t => (t.crcResult, t.crcState)) =
      some (0xCBF43926#32, 0x340BC6D9#32) := by decide
/-- V-R16. -/
theorem test_crcFinal_after_init : after .crcFinal State.reset (fun t => t.crcResult) = some 0#32 := by decide
/-- V-R17. -/
theorem test_chunkNew_empty :
    after .chunkNew (stateOf 0 0 0 0x49454E44#32 0 []) (fun t => (t.chunkLen, t.crcResult)) =
      some (0#32, 0xAE426082#32) := by decide +kernel
/-- V-R18. -/
theorem test_chunkNew :
    after .chunkNew (serializeState 0 5 0) (fun t => (t.chunkLen, t.crcResult, t.crcState)) =
      some (5#32, 0xAE508D6F#32, 0xFFFFFFFF#32) := by decide +kernel

/-! ## Type classifier (section 2.1) -/

/-- V-T4, V-T5, V-T11, V-T16 and the reset corner V-T15, at P_VALID_INCLUDES_RESERVED = 0. -/
theorem test_typeClassify :
    [0x52757374#32, 0x52755354#32, 0x41424044#32, 0xFFFFFFFF#32, 0x00000000#32].map
      (fun w => after .typeClassify (stateOf 0 0 0 w 0 []) (fun t => t.typeFlags)) =
      [some 0x00001F39#32, some 0x0000DF15#32, some 0x0000BB03#32, some 0x00000008#32, some 0x00000003#32] := by decide +kernel
/-- V-T4 and V-T1 at P_VALID_INCLUDES_RESERVED = 1. -/
theorem test_typeClassify_reserved :
    classify { Config.resetParams with validIncludesReserved := true } 0x52757374#32 = 0x00001F19#32 ∧
    classify { Config.resetParams with validIncludesReserved := true } 0x52755374#32 = 0x00005F3D#32 := by decide
/-- V-T1. -/
theorem test_typeCheckText_ok :
    after .typeCheckText (stateOf 0 0 0 0x52755374#32 0 []) (fun t => (t.typeFlags, statusErrCode t.status)) =
      some (0x00005F3D#32, 0#4) := by decide
/-- V-K6, and V-T12 to V-T14: a byte next to a letter range. -/
theorem test_typeCheckText_refuses :
    after .typeCheckText ((stateOf 0 0 0 0x52753174#32 0 []).accept 0x11#32) (fun t => (t.typeFlags, t.status)) =
      some (0#32, 0x00110502#32) ∧
    [0x61625B64#32, 0x61606364#32, 0x6162637B#32].map
      (fun w => after .typeCheckText (stateOf 0 0 0 w 0 []) (fun t => statusErrCode t.status)) = [some 5#4, some 5#4, some 5#4] := by decide +kernel

/-! ## Chunk framer (section 2.3) -/

/-- V-C1. -/
theorem test_chunkParse_ok :
    after .chunkParse (parseState 17)
      (fun t => (statusErrCode t.status, t.chunkLen, t.ptype, t.chunkCrc, t.crcResult, t.typeFlags, t.next, t.errOff)) =
      some (0#4, 5#32, ruSt, 0xAE508D6F#32, 0xAE508D6F#32, 0x00004F3C#32, 0x111#32, 0#32) := by decide +kernel
/-- V-C4, and V-C3a, V-C3c, V-C5c. -/
theorem test_chunkParse_errors :
    after .chunkParse ((parseState 17).withBytes 0x108 [0x69#8])
      (fun t => (statusErrCode t.status, t.errOff, t.chunkCrc, t.crcResult, t.next)) =
      some (4#4, 0x100#32, 0xAE508D6F#32, 0x9330A4DF#32, 0x111#32) ∧
    after .chunkParse (parseState 16) (fun t => (statusErrCode t.status, t.errOff, t.next)) = some (2#4, 0x100#32, 0#32) ∧
    after .chunkParse (parseState 0) (fun t => (statusErrCode t.status, t.errOff, t.next)) = some (2#4, 0x100#32, 0#32) ∧
    after .chunkParse (stateOf 0x180 0x80 0 0 0x180 [0xFF#8, 0xFF#8, 0xFF#8, 0xFF#8, 0x49#8, 0x45#8, 0x4E#8, 0x44#8])
      (fun t => (statusErrCode t.status, t.errOff, t.next)) = some (2#4, 0x180#32, 0#32) := by decide +kernel
/-- V-C6. -/
theorem test_chunkSerialize_ok :
    after .chunkSerialize (serializeState 0 5 0x100) (fun t => (t.bytesAt 0x100 17, t.chunkLen, t.crcResult, t.next)) =
      some (helloRecord, 5#32, 0xAE508D6F#32, 0x111#32) := by decide +kernel
/-- V-C7 to V-C9, V-C11 to V-C13: overlap, a touching range, and both ends of the range check. -/
theorem test_chunkSerialize_corners :
    [(0, 4), (0, 5), (0x10, 0), (0, 1007), (0, 1008), (1020, 0)].map
      (fun c => after .chunkSerialize (serializeState c.1 5 c.2) (fun t => (statusErrCode t.status, t.next))) =
      [some (8#4, 0#32), some (0#4, 0x16#32), some (8#4, 0#32), some (0#4, 1024#32), some (7#4, 0#32),
        some (7#4, 0#32)] := by decide +kernel

/-! ## Stream framer (section 2.4) -/

/-- V-S8: LEN = 8, LEN = 100 and LEN = 7. -/
theorem test_sigCheck :
    after .sigCheck (streamState 8) (fun t => (statusErrCode t.status, t.next)) = some (0#4, 0x308#32) ∧
    after .sigCheck (streamState 100) (fun t => (statusErrCode t.status, t.next)) = some (0#4, 0x308#32) ∧
    after .sigCheck (streamState 7) (fun t => (statusErrCode t.status, t.next)) = some (2#4, 0#32) := by decide +kernel
/-- V-S8: BUF[0x300] = 0x88. -/
theorem test_sigCheck_bad :
    after .sigCheck ((streamState 8).withBytes 0x300 [0x88#8]) (fun t => (statusErrCode t.status, t.errOff)) =
      some (1#4, 0x300#32) := by decide +kernel
/-- V-S9. -/
theorem test_sigWrite :
    after .sigWrite (stateOf 0 0 1016 0 0 []) (fun t => (t.bytesAt 1016 8, t.next)) =
      some ([0x89#8, 0x50#8, 0x4E#8, 0x47#8, 0x0D#8, 0x0A#8, 0x1A#8, 0x0A#8], 1024#32) ∧
    after .sigWrite (stateOf 0 0 1017 0 0 []) (fun t => (statusErrCode t.status, t.buf)) = some (7#4, []) := by decide +kernel
/-- V-S5 and V-S6. -/
theorem test_streamParse_ok :
    after .streamParse (streamState 8) (fun t => (statusErrCode t.status, t.chunkCount, t.next)) = some (0#4, 0#32, 0x308#32) ∧
    after .streamParse (streamState 20) (fun t => (statusErrCode t.status, t.chunkCount, t.next)) =
      some (0#4, 1#32, 0x314#32) := by decide +kernel
/-- V-S6 with five more bytes, and V-S7. -/
theorem test_streamParse_truncated :
    after .streamParse (streamState 25) (fun t => (statusErrCode t.status, t.errOff, t.chunkCount)) =
      some (2#4, 0x314#32, 0#32) ∧
    after .streamParse (streamState 5) (fun t => (statusErrCode t.status, t.errOff)) = some (2#4, 0x300#32) := by decide +kernel

/-! ## The ports (section 2.6) -/

/-- V-H1 and V-H7: refused accesses change nothing but the draw of a read. -/
theorem test_busError :
    (State.reset.access { port := .csr, offset := 0x08, width := 1, dir := .read }).1 = { State.reset with draws := 1 } ∧
    State.reset.access { port := .buf, offset := 0x100, width := 2, dir := .write 0x1234#32 } = (State.reset, .busErr) ∧
    State.reset.access { port := .buf, offset := 0x101, width := 4, dir := .write 0x1234#32 } = (State.reset, .busErr) := by
  decide
/-- V-H2 and V-H3. -/
theorem test_reserved_and_read_only :
    State.reset.access { port := .csr, offset := 0x54, width := 4, dir := .read } = (State.reset, .word 0#32) ∧
    State.reset.access (csrw .crcResult 0x1234#32) = (State.reset, .written) := by decide
/-- V-H4. -/
theorem test_overrun :
    ((busyState.access (csrw .src 7#32)).1.src, (busyState.access (csrw .src 7#32)).1.intStatus) = (0#32, 4#32) := by decide
/-- V-H6. -/
theorem test_lanes :
    ((State.reset.access (bw32 0x100 0x0000000D#32)).1.access (br8 0x103)).2 = .byte 0x0D#8 ∧
    ((State.reset.access (bw32 0x100 0x0000000D#32)).1.access (br8 0x100)).2 = .byte 0x00#8 := by decide +kernel
/-- V-H8. -/
theorem test_power_on :
    State.reset.readCsr .id = 0x504E4743#32 ∧ State.reset.readCsr .crcState = 0xFFFFFFFF#32 ∧
    State.reset.readCsr .config = 1024#32 ∧ State.reset.readCsr .status = 0#32 := by decide
/-- V-H9. -/
theorem test_soft_reset_while_busy :
    (busyState.access (csrw .ctrl 1#32)).1.bytesAt 0 5 = hello ∧
    (busyState.access (csrw .ctrl 1#32)).1.byteAt 0x110 = Config.freeByte 16 ∧
    (busyState.access (csrw .ctrl 1#32)).1.intStatus = 0#32 ∧ (busyState.access (csrw .ctrl 1#32)).1.src = 0#32 := by
  refine ⟨by decide +kernel, rfl, by decide +kernel, by decide +kernel⟩
/-- V-H10: ERR_EN only. -/
theorem test_irq :
    after .nop { State.reset with intEnable := 2#32 } (fun t => (t.irq, t.intStatus)) = some (false, 1#32) ∧
    after (.badCommand 0xFF#32) { State.reset with intEnable := 2#32 }
      (fun t => (t.irq, (t.access (csrw .intStatus 2#32)).1.irq)) = some (true, false) := by decide
/-- 30_encoding.md R92. -/
theorem test_notation :
    cmd .chunkParse = { port := .csr, offset := 0x0C, width := 4, dir := .write 0x00000020#32 } ∧
    csrw .type 0x72755374#32 = { port := .csr, offset := 0x24, width := 4, dir := .write 0x72755374#32 } ∧
    State.reset.access (bw32 0x100 0x0000000D#32) = (State.reset.withBytes 0x100 [0#8, 0#8, 0#8, 0x0D#8], .written) := by
  decide +kernel

/-! ## Witnesses: concrete states and operands that meet the hypotheses of each statement, clause by clause -/

/-- The reset state with one move to come. -/
def resetWith (m : Move) : State := State.reset.withMoves [m]

/-- A state one step from its next: witnesses of `step s = .next t`. -/
def stepsTo (s : State) (f : State → Bool) : Bool :=
  match step s with
  | .next t => f t
  | .fault _ => false
  | .refused _ => false

theorem stepsTo_next {s : State} {f : State → Bool} (h : stepsTo s f = true) : ∃ t, step s = .next t ∧ f t = true := by
  unfold stepsTo at h
  split at h
  · exact ⟨_, ‹_›, h⟩
  · simp at h
  · simp at h

/-- DecodeOfEncode. -/
theorem test_witness_wellFormed :
    Instr.streamParse.wellFormed = true ∧ (Instr.badCommand 0x33#32).wellFormed = true ∧
      (Instr.badCommand 0xFFFFFFFF#32).wellFormed = true := by decide
/-- PowerOnValues, and the reserved offsets of the CSR port: both ends. -/
theorem test_witness_reserved_offsets :
    Csr.src ∉ [Csr.id, .crcState, .config, .features] ∧ 0x54 % 4 = 0 ∧ 0x54 ≤ 0x54 ∧ 0x54 < 0x100 ∧
      0xFC % 4 = 0 ∧ 0x54 ≤ 0xFC ∧ 0xFC < 0x100 := by decide
/-- PowerOnMeetsInvariant, WindowsReachPorts: the parameters of log 2, and the least legal P_BUF_BYTES. -/
theorem test_witness_params : Config.resetParams.wf ∧
    Params.wf { bufBytes := 16, csrBase := 0x1000, bufBase := 0, validIncludesReserved := true } := by decide
/-- WindowsReachPorts: the last offsets, and addresses just outside the windows. -/
theorem test_witness_windows :
    0xFF < 0x100 ∧ 1023 < Config.resetParams.bufBytes ∧
    (0x100 < Config.resetParams.csrBase ∨ Config.resetParams.csrBase + 0x100 ≤ 0x100) ∧
    (0x100 < Config.resetParams.bufBase ∨ Config.resetParams.bufBase + Config.resetParams.bufBytes ≤ 0x100) := by decide
/-- StepKeepsInvariant, RegisterAccessWhileIdle: an IDLE state with a move that accepts a command. -/
theorem test_witness_inv : (resetWith (.host (cmd .nop))).Inv ∧ ∃ t, step (resetWith (.host (cmd .nop))) = .next t ∧
    t.seq = .busy 0#32 := by
  refine ⟨⟨by decide, List.Pairwise.nil, by simp [resetWith, State.reset, State.powerOn], by decide, by decide,
    ⟨.none, by decide, by decide⟩, by simp [resetWith, State.reset, State.powerOn], by decide, by decide, by decide,
    .inl (by decide), by decide, by decide, by decide⟩, _, rfl, by decide⟩
/-- StepKeepsInvariant: a BUSY state. -/
theorem test_witness_inv_busy : (State.reset.accept 0xFF#32).Inv :=
  ⟨by decide, List.Pairwise.nil, by simp [State.reset, State.powerOn], by decide, by decide, ⟨.none, by decide, by decide⟩,
    fun w h => by rw [← Seq.busy.inj h]; decide, by decide, by decide, by decide, .inl (by decide), by decide, by decide,
    by decide⟩
/-- AcceptanceOfCommand, RegisterAccessWhileIdle, BufPortWhileIdle, StepRunsDecodedCommand: IDLE, no move to come. -/
theorem test_witness_idle : State.reset.seq = .idle ∧ State.reset.moves = [] := by decide
/-- StepRunsDecodedCommand, PendingCommandEnds and the statements about BUSY: BUSY, with each form of the moves. -/
theorem test_witness_busy :
    busyState.seq = .busy 0x21#32 ∧ busyState.moves = [] ∧
    (busyState.withMoves [.block]).seq = .busy 0x21#32 ∧ (busyState.withMoves [.block]).moves = .block :: [] ∧
    (busyState.withMoves [.wait 0]).intStatus.getLsbD 0 = false ∧
    (busyState.withMoves [.wait 0]).moves = .wait 0 :: [] := by decide +kernel
/-- HostAccessStep. -/
theorem test_witness_host : (resetWith (.host (csrr .id))).moves = .host (csrr .id) :: [] := by decide
/-- BusyAccessLeavesCommandAlone: an access that is no soft reset, one that writes CTRL among them. -/
theorem test_witness_no_soft_reset :
    (csrw .ctrl 0xFFFFFFFE#32).isSoftReset = false ∧ (bw8 0 1#8).isSoftReset = false ∧
      (csrw .ctrl 1#32).isSoftReset = true := by decide
/-- CsrPortLegalAccesses: each way to be illegal, and the last legal offset. -/
theorem test_witness_csr_port :
    (1 ≠ 4 ∨ 0x08 % 4 ≠ 0 ∨ 0x100 ≤ 0x08) ∧ (4 ≠ 4 ∨ 0x09 % 4 ≠ 0 ∨ 0x100 ≤ 0x09) ∧
      (4 ≠ 4 ∨ 0x100 % 4 ≠ 0 ∨ 0x100 ≤ 0x100) ∧ 0xFC % 4 = 0 ∧ 0xFC < 0x100 := by decide
/-- BufPortWhileIdle, MixedWidthBufAccess: the last byte, the last word, a 2-byte, a misaligned and a too high access. -/
theorem test_witness_buf_port :
    1023 < State.reset.params.bufBytes ∧ (1020 % 4 = 0 ∧ 1020 + 4 ≤ State.reset.params.bufBytes) ∧
    (¬ (2 = 1 ∧ 0x100 < State.reset.params.bufBytes) ∧
      ¬ (2 = 4 ∧ 0x100 % 4 = 0 ∧ 0x100 + 4 ≤ State.reset.params.bufBytes)) ∧
    (¬ (4 = 1 ∧ 0x101 < State.reset.params.bufBytes) ∧
      ¬ (4 = 4 ∧ 0x101 % 4 = 0 ∧ 0x101 + 4 ≤ State.reset.params.bufBytes)) ∧
    (¬ (1 = 1 ∧ 1024 < State.reset.params.bufBytes) ∧
      ¬ (1 = 4 ∧ 1024 % 4 = 0 ∧ 1024 + 4 ≤ State.reset.params.bufBytes)) := by decide
/-- ReadsHaveNoSideEffect. -/
theorem test_witness_read : (csrr .status).dir = .read ∧ (br8 0).dir = .read := by decide
/-- IntStatusBitsAreSticky and the last part of IrqLevel: the host clears DONE, and `irq` falls. -/
theorem test_witness_clear : ∃ t,
    step { resetWith (.host (csrw .intStatus 1#32)) with intStatus := 1#32, intEnable := 1#32 } = .next t ∧
    (1#32).getLsbD 0 = true ∧
    ({ resetWith (.host (csrw .intStatus 1#32)) with intStatus := 1#32, intEnable := 1#32 } : State).irq = true ∧
    t.intStatus.getLsbD 0 = false ∧ t.irq = false := ⟨_, rfl, by decide, by decide, by decide, by decide⟩
/-- IrqLevel: a completion with DONE_EN, one with ERR_EN and an error. -/
theorem test_witness_irq :
    after .nop { State.reset with intEnable := 1#32 } (fun t => (t.intEnable.getLsbD 0, t.irq)) = some (true, true) ∧
    after (.badCommand 0xFF#32) { State.reset with intEnable := 2#32 }
      (fun t => (t.intEnable.getLsbD 1, statusErr t.status, t.irq)) = some (true, true, true) := by decide
/-- SoftResetResults: while BUSY with a destination, with bytes inside and just outside it; both writing commands. -/
theorem test_witness_soft_reset :
    (1#32).getLsbD 0 = true ∧ busyState.seq = .busy 0x21#32 ∧
    busyState.storeRange (decodeCommand 0x21#32) = some (0x100, 17) ∧ 16 < 17 ∧ (0x111 < 0x100 ∨ 0x100 + 17 ≤ 0x111) ∧
    (serializeState 0 5 4).storeRange .chunkSerialize = none ∧
    (stateOf 0 0 1016 0 0 []).storeRange .sigWrite = some (1016, 8) ∧
    (stateOf 0 0 1017 0 0 []).storeRange .sigWrite = none ∧ Instr.nop ≠ .chunkSerialize ∧ Instr.nop ≠ .sigWrite := by
  decide +kernel
/-- SimultaneousEvents: each kind of access in the same step as the completion. -/
theorem test_witness_both :
    (busyState.withMoves [.both (csrw .src 7#32)]).seq = .busy 0x21#32 ∧
    (busyState.withMoves [.both (csrw .src 7#32)]).moves = .both (csrw .src 7#32) :: [] ∧
    (busyState.withMoves [.both (csrw .intStatus 7#32)]).moves = .both (csrw .intStatus 7#32) :: [] ∧
    (7#32).getLsbD 2 = true ∧ (1#32).getLsbD 0 = true ∧
    (busyState.withMoves [.both (csrw .ctrl 1#32)]).moves = .both (csrw .ctrl 1#32) :: [] := by decide +kernel
/-- BadCommandCompletes: a reserved bit set, and an opcode outside R83. -/
theorem test_witness_illegal :
    (0x100#32).extractLsb' 8 24 ≠ 0#24 ∧ (0x05#32).extractLsb' 0 8 ∉ [0x00#8, 0x01#8, 0x02#8, 0x03#8, 0x04#8, 0x10#8, 0x11#8,
      0x20#8, 0x21#8, 0x30#8, 0x31#8, 0x32#8] := by decide
/-- CrcUpdateResult, ChunkNewResult, RangeCheck: the last legal SRC with LEN = 0, and the first illegal one. -/
theorem test_witness_source_range :
    (stateOf 1024 0 0 0 0 []).src.toNat + (stateOf 1024 0 0 0 0 []).len.toNat ≤ (stateOf 1024 0 0 0 0 []).params.bufBytes ∧
    (stateOf 1025 0 0 0 0 []).params.bufBytes < (stateOf 1025 0 0 0 0 []).src.toNat + (stateOf 1025 0 0 0 0 []).len.toNat ∧
    (stateOf 1025 0 0 0 0 []).checkedRanges .crcUpdate = [(1025, 0)] ∧ 1024 < 1025 + 0 := by decide
/-- TypeCheckTextResult: "RuSt" and "Ru1t". -/
theorem test_witness_alphabetic :
    (∀ b ∈ bytes32 0x52755374#32, isAlpha b = true) ∧ (∃ b ∈ bytes32 0x52753174#32, isAlpha b = false) := by decide
/-- FrameReadsRecord: three bytes, one byte less than a record, a whole record; the other bytes of BUF differ. -/
theorem test_witness_frame :
    (3 < 4 ∨ 3 < 12 + (be32 ((parseState 17).bytesAt 0x100 4)).toNat) ∧
    (16 < 4 ∨ 16 < 12 + (be32 ((parseState 17).bytesAt 0x100 4)).toNat) ∧
    (4 ≤ 17 ∧ 12 + (be32 ((parseState 17).bytesAt 0x100 4)).toNat ≤ 17) := by decide +kernel
/-- FrameReadsRecord, second part: two states that agree on the available bytes only. -/
theorem test_witness_frame_agrees : ∀ x, 0x100 ≤ x → x < 0x100 + 17 →
    (parseState 17).byteAt x = ((parseState 17).withBytes 0x111 [0#8]).byteAt x :=
  fun _ _ h => (State.byteAt_withBytes_outside _ _ (.inl h)).symm
/-- ChunkParseResult: RANGE, both ways to be TRUNCATED, a matching CRC and a mismatch. -/
theorem test_witness_chunkParse :
    (stateOf 0x3F0 0x20 0 0 0 []).params.bufBytes < 0x3F0 + 0x20 ∧
    (0x100 + 3 ≤ (parseState 3).params.bufBytes ∧ 3 < 4) ∧
    (0x100 + 16 ≤ (parseState 16).params.bufBytes ∧ 16 < 12 + (be32 ((parseState 16).bytesAt 0x100 4)).toNat) ∧
    (0x100 + 17 ≤ (parseState 17).params.bufBytes ∧ 12 + (be32 ((parseState 17).bytesAt 0x100 4)).toNat ≤ 17) ∧
    crc32 (bytes32 (be32 ((parseState 17).bytesAt 0x104 4)) ++ (parseState 17).bytesAt 0x108 5) =
      be32 ((parseState 17).bytesAt 0x10D 4) ∧
    crc32 (bytes32 (be32 ((parseState 17).bytesAt 0x104 4)) ++ ((parseState 17).withBytes 0x108 [0x69#8]).bytesAt 0x108 5) ≠
      be32 ((parseState 17).bytesAt 0x10D 4) := by decide +kernel
/-- The two ranges of a CHUNK_SERIALIZE share a byte exactly when some offset lies in both (V-C7, V-C8). -/
theorem test_witness_chunkSerialize :
    (1024 < 0 + 5 ∨ 1024 < 1008 + 5 + 12) ∧ (0 + 5 ≤ 1024 ∧ 1007 + 5 + 12 ≤ 1024) ∧
    (∃ x, (0 ≤ x ∧ x < 0 + 5) ∧ (4 ≤ x ∧ x < 4 + (5 + 12))) ∧ (¬ ∃ x, (0 ≤ x ∧ x < 0 + 5) ∧ (5 ≤ x ∧ x < 5 + (5 + 12))) ∧
    (serializeState 0 5 5).params.bufBytes = 1024 ∧ (serializeState 0 5 5).src.toNat = 0 ∧
    (serializeState 0 5 5).len.toNat = 5 ∧ (serializeState 0 5 5).dst.toNat = 5 :=
  ⟨by decide, by decide, ⟨4, by decide⟩, by omega, by decide, by decide, by decide, by decide⟩
/-- SigCheckResult: LEN = 7, LEN = 8 with SIG, and with one byte changed. -/
theorem test_witness_sigCheck :
    ((streamState 7).src.toNat + (streamState 7).len.toNat ≤ (streamState 7).params.bufBytes ∧ (streamState 7).len.toNat < 8) ∧
    ((streamState 8).src.toNat + (streamState 8).len.toNat ≤ (streamState 8).params.bufBytes ∧ 8 ≤ (streamState 8).len.toNat ∧
      (streamState 8).bytesAt 0x300 8 = sig ∧ ((streamState 8).withBytes 0x307 [0#8]).bytesAt 0x300 8 ≠ sig) ∧
    (stateOf 1017 8 0 0 0 []).params.bufBytes < (stateOf 1017 8 0 0 0 []).src.toNat + (stateOf 1017 8 0 0 0 []).len.toNat := by
  decide +kernel
/-- SigWriteResult, StreamsGrowRecordByRecord: the last legal DST and the first illegal one. -/
theorem test_witness_sigWrite :
    (stateOf 0 0 1016 0 0 []).dst.toNat + 8 ≤ (stateOf 0 0 1016 0 0 []).params.bufBytes ∧
    (stateOf 0 0 1017 0 0 []).params.bufBytes < (stateOf 0 0 1017 0 0 []).dst.toNat + 8 ∧
    (stateOf 0 0 1016 0 0 []).params.bufBytes ≤ 2 ^ 31 := by decide
/-- The IEND record of the stream of V-S6 is framed, with any number of bytes available from 12 on. -/
theorem test_witness_iend_framed (len : Nat) (h : 20 ≤ len) :
    (streamState len).frame 0x308 (0x300 + len - 0x308) = .record 0#32 0x49454E44#32 0xAE426082#32 0xAE426082#32 := by
  have hb : ∀ a n, (streamState len).bytesAt a n = (streamState 20).bytesAt a n :=
    fun a n => State.bytesAt_congr fun _ _ _ => rfl
  have h20 : (streamState 20).frame 0x308 12 = .record 0#32 0x49454E44#32 0xAE426082#32 0xAE426082#32 := by decide +kernel
  have hl : be32 ((streamState 20).bytesAt 0x308 4) = 0#32 := by decide +kernel
  unfold State.frame at h20 ⊢
  simp only [hb, hl] at h20 ⊢
  rw [if_neg (by decide), if_neg (by decide)] at h20
  rw [if_neg (by omega), if_neg (by simp [recordSize]; omega)]
  exact h20
/-- StreamParseAccepts: SIG alone (k = 0), and one record (k = 1). -/
theorem test_witness_stream_accepts :
    (streamState 8).Walks (0x300 + 8) (0x300 + 8) 0 (0x300 + 8) ∧ (streamState 20).Walks (0x300 + 20) (0x300 + 8) 1 (0x300 + 20) ∧
    (streamState 20).src.toNat + (streamState 20).len.toNat ≤ (streamState 20).params.bufBytes ∧
    8 ≤ (streamState 20).len.toNat ∧ (streamState 20).bytesAt (streamState 20).src.toNat 8 = sig :=
  ⟨.here _, .record (by decide) (test_witness_iend_framed 20 (by decide)) (.here _), by decide, by decide, by decide +kernel⟩
/-- StreamParseErrors: RANGE, a short stream, a wrong signature; then one record and five trailing bytes (k = 1). -/
theorem test_witness_stream_truncated :
    (stateOf 1017 8 0 0 0 []).params.bufBytes < (stateOf 1017 8 0 0 0 []).src.toNat + (stateOf 1017 8 0 0 0 []).len.toNat ∧
    (streamState 7).len.toNat < 8 ∧ ((streamState 8).withBytes 0x307 [0#8]).bytesAt 0x300 8 ≠ sig ∧
    (streamState 25).Walks (0x300 + 25) (0x300 + 8) 1 0x314 ∧ 0x314 < 0x300 + 25 ∧
    (streamState 25).frame 0x314 (0x300 + 25 - 0x314) = .truncated :=
  ⟨by decide, by decide, by decide +kernel, .record (by decide) (test_witness_iend_framed 25 (by decide)) (.here _),
    by decide, by decide +kernel⟩
/-- StreamParseErrors: a first record whose type byte is changed (k = 0). -/
theorem test_witness_stream_mismatch :
    ((streamState 20).withBytes 0x30C [0x69#8]).Walks (0x300 + 20) (0x300 + 8) 0 0x308 ∧ 0x308 < 0x300 + 20 ∧
    ∃ computed, ((streamState 20).withBytes 0x30C [0x69#8]).frame 0x308 (0x300 + 20 - 0x308) =
      .record 0#32 0x69454E44#32 0xAE426082#32 computed ∧ computed ≠ 0xAE426082#32 :=
  ⟨.here _, by decide, crc32 [0x69#8, 0x45#8, 0x4E#8, 0x44#8], by decide +kernel, by decide +kernel⟩
/-- StreamWalkEnds: an empty walk, and one that has bytes to go. -/
theorem test_witness_walk : 0x308 ≤ 0x308 ∧ 0x308 ≤ 0x314 := by decide
/-- RangeCheck: a passing and a failing destination of CHUNK_SERIALIZE. -/
theorem test_witness_checked_ranges :
    (∀ r ∈ (serializeState 0 5 1007).checkedRanges .chunkSerialize, r.1 + r.2 ≤ (serializeState 0 5 1007).params.bufBytes) ∧
    (∃ r ∈ (serializeState 0 5 1008).checkedRanges .chunkSerialize, (serializeState 0 5 1008).params.bufBytes < r.1 + r.2) := by
  decide
/-- RegisterFrame, MemoryFrame, StatusFrame: a command that stores, a register it does not write, a byte next to its range. -/
theorem test_witness_frame_of_command : (∃ t, exec .sigWrite (stateOf 0 0 0 0 0 []) = .next t) ∧ Csr.crcState ∉ csrsWritten .sigWrite ∧
    (stateOf 0 0 0 0 0 []).storeRange .sigWrite = some (0, 8) ∧ (8 < 0 ∨ 0 + 8 ≤ 8) ∧
    (0x2#32).getLsbD 1 = true ∧ 2 ≤ 2 := ⟨⟨_, rfl⟩, by decide, by decide, by decide, by decide, by decide⟩
/-- ErrorsArePrecise: an error with an offset, one without, and a success. -/
theorem test_witness_errors :
    after .chunkParse (parseState 3) (fun t => (statusErr t.status, statusErrCode t.status)) = some (true, 2#4) ∧
    after .typeCheckText State.reset (fun t => (statusErr t.status, decide (statusErrCode t.status ∉ [1#4, 2#4, 4#4]))) =
      some (true, true) := by decide +kernel
/-- RunningCrcOfAdjacentRanges: two ranges that end at P_BUF_BYTES. -/
theorem test_witness_running : State.reset.params.bufBytes ≤ 2 ^ 31 ∧ 1015 + 4 + 5 ≤ State.reset.params.bufBytes := by decide
/-- CrcDetectsOneByteChange, CrcIsLinear. -/
theorem test_witness_crc : 0x68#8 ≠ 0x69#8 ∧ [0x68#8, 0x65#8].length = [0x00#8, 0xFF#8].length := by decide
/-- SerializeThenParse: the record of V-C11, which ends at P_BUF_BYTES; and V-C8 with trailing bytes. -/
theorem test_witness_round_trip :
    (∀ c ∈ [(1007, 17), (5, 30)],
      (serializeState 0 5 c.1).src.toNat + (serializeState 0 5 c.1).len.toNat ≤ (serializeState 0 5 c.1).params.bufBytes ∧
      (serializeState 0 5 c.1).len.toNat + 12 ≤ (BitVec.ofNat 32 c.2).toNat ∧
      (serializeState 0 5 c.1).dst.toNat + (BitVec.ofNat 32 c.2).toNat ≤ (serializeState 0 5 c.1).params.bufBytes) ∧
    (¬ ∃ x, (0 ≤ x ∧ x < 0 + 5) ∧ (1007 ≤ x ∧ x < 1007 + (5 + 12))) := ⟨by decide, by omega⟩
/-- ChecksumSensitivity: the record of V-C1, its first type byte and its last crc byte changed. -/
theorem test_witness_sensitivity :
    (parseState 17).src.toNat + (parseState 17).len.toNat ≤ (parseState 17).params.bufBytes ∧
    (parseState 17).frame (parseState 17).src.toNat (parseState 17).len.toNat = .record 5#32 ruSt 0xAE508D6F#32 0xAE508D6F#32 ∧
    ((parseState 17).src.toNat + 4 ≤ 0x104 ∧ 0x104 < (parseState 17).src.toNat + 12 + (5#32).toNat ∧
      0#8 ≠ (parseState 17).byteAt 0x104) ∧
    ((parseState 17).src.toNat + 4 ≤ 0x110 ∧ 0x110 < (parseState 17).src.toNat + 12 + (5#32).toNat ∧
      0#8 ≠ (parseState 17).byteAt 0x110) := by decide +kernel
/-- StreamsGrowRecordByRecord, second part: an empty record after the one of V-S6. -/
theorem test_witness_stream_grows :
    let s : State := { streamState 20 with src := 0#32, len := 0#32, dst := 0x314#32 }
    s.params.bufBytes ≤ 2 ^ 31 ∧ s.bytesAt 0x300 8 = sig ∧ s.Walks (0x300 + 20) (0x300 + 8) 1 (0x300 + 20) ∧
    s.dst.toNat = 0x300 + 20 ∧ s.src.toNat + s.len.toNat ≤ s.params.bufBytes ∧
    0x300 + 20 + (s.len.toNat + 12) ≤ s.params.bufBytes ∧
    (¬ ∃ x, (s.src.toNat ≤ x ∧ x < s.src.toNat + s.len.toNat) ∧
      (0x300 + 20 ≤ x ∧ x < 0x300 + 20 + (s.len.toNat + 12))) := by
  refine ⟨by decide, by decide +kernel, ?_, by decide, by decide, by decide, ?_⟩
  · exact .record (by decide) (len := 0#32) (type := 0x49454E44#32) (crc := 0xAE426082#32) (by decide +kernel) (.here _)
  · rintro ⟨x, ⟨_, h⟩, _⟩
    have h0 : x < 0 := h
    omega

end Sys2Proof.Tests
end

section
/-! PROOFS. 00_scope.md: the host bus windows (R7, R60, R71) and the big-endian byte order (R10). -/

namespace Sys2Proof.Machine

open Sys2Proof

theorem routeAddress_csrBase_add (p : Params) {off : Nat} (h : off < 0x100) :
    routeAddress p (p.csrBase + off) = some (.csr, off) := by
  rw [routeAddress, if_pos (by omega), Nat.add_sub_cancel_left]

/-- The windows of legal parameters are disjoint (R71), so the CSR window, which is tried first, hides no byte of BUF. -/
theorem routeAddress_bufBase_add {p : Params} (hp : p.wf) {off : Nat} (h : off < p.bufBytes) :
    routeAddress p (p.bufBase + off) = some (.buf, off) := by
  obtain ⟨-, -, -, disjoint⟩ := hp
  rw [routeAddress, if_neg (by omega), if_pos (by omega), Nat.add_sub_cancel_left]

theorem routeAddress_eq_none {p : Params} {addr : Nat}
    (hcsr : addr < p.csrBase ∨ p.csrBase + 0x100 ≤ addr)
    (hbuf : addr < p.bufBase ∨ p.bufBase + p.bufBytes ≤ addr) : routeAddress p addr = none := by
  rw [routeAddress, if_neg (by omega), if_neg (by omega)]

/-- Settles O28: one lemma per window, and one for the addresses in neither. -/
theorem windowsReachPorts : Obligations.WindowsReachPorts := fun p _ hp =>
  ⟨fun _ => routeAddress_csrBase_add p, fun _ => routeAddress_bufBase_add hp, routeAddress_eq_none⟩

/-- The four byte slices of a word are adjacent, so joining them from the most significant end merges them back. -/
@[simp] theorem be32_bytes32 (v : Word) : be32 (bytes32 v) = v := by
  rw [bytes32, be32, BitVec.extractLsb'_append_extractLsb'_eq_extractLsb' (by rfl),
    BitVec.extractLsb'_append_extractLsb'_eq_extractLsb' (by rfl),
    BitVec.extractLsb'_append_extractLsb'_eq_extractLsb' (by rfl)]
  exact BitVec.extractLsb'_eq_self

/-- Slice by slice: the appends below a byte are dropped from the start of the slice until it is that byte. -/
@[simp] theorem bytes32_be32 (b0 b1 b2 b3 : Byte) : bytes32 (be32 [b0, b1, b2, b3]) = [b0, b1, b2, b3] := by
  have h0 : (b0 ++ b1 ++ b2 ++ b3).extractLsb' 24 8 = b0 := by
    rw [BitVec.extractLsb'_append_eq_of_le (by decide), BitVec.extractLsb'_append_eq_of_le (by decide)]
    exact BitVec.extractLsb'_append_eq_left
  have h1 : (b0 ++ b1 ++ b2 ++ b3).extractLsb' 16 8 = b1 := by
    rw [BitVec.extractLsb'_append_eq_of_le (by decide), BitVec.extractLsb'_append_eq_of_le (by decide)]
    exact BitVec.extractLsb'_append_eq_right
  have h2 : (b0 ++ b1 ++ b2 ++ b3).extractLsb' 8 8 = b2 := by
    rw [BitVec.extractLsb'_append_eq_of_le (by decide)]
    exact BitVec.extractLsb'_append_eq_right
  rw [be32, bytes32, h0, h1, h2, BitVec.extractLsb'_append_eq_right]

theorem toNat_append_byte {n : Nat} (x : BitVec n) (b : Byte) : (x ++ b).toNat = x.toNat * 2 ^ 8 + b.toNat := by
  rw [BitVec.toNat_append, ← Nat.shiftLeft_add_eq_or_of_lt b.isLt, Nat.shiftLeft_eq]

theorem be32_toNat (b0 b1 b2 b3 : Byte) :
    (be32 [b0, b1, b2, b3]).toNat = b0.toNat * 2 ^ 24 + b1.toNat * 2 ^ 16 + b2.toNat * 2 ^ 8 + b3.toNat := by
  simp only [be32, toNat_append_byte]
  omega

/-- Settles O51: both inverse directions and the value of the word. -/
theorem bigEndianRoundTrip : Obligations.BigEndianRoundTrip :=
  ⟨be32_bytes32, fun b0 b1 b2 b3 => ⟨bytes32_be32 b0 b1 b2 b3, be32_toNat b0 b1 b2 b3⟩⟩

end Sys2Proof.Machine
end

section
/-! PROOFS. 10_state.md R26 to R29: the fields and the reserved bits of STATUS, INT_STATUS and INT_ENABLE under each update. -/

namespace Sys2Proof.Machine

open Sys2Proof

/-- A reserved bit of STATUS lies in none of its four fields (R26). -/
theorem statusReserved_outside_fields : ∀ i < 32, (0xFF00F0FC#32).getLsbD i = true →
    i ≠ 0 ∧ i ≠ 1 ∧ ¬ (8 ≤ i ∧ i < 12) ∧ ¬ (16 ≤ i ∧ i < 24) := by decide

/-- Two words agree under a mask when their bits agree where the mask is 1. -/
theorem and_eq_and_of_getLsbD {x y m : Word} (h : ∀ i < 32, m.getLsbD i = true → x.getLsbD i = y.getLsbD i) :
    x &&& m = y &&& m := by
  ext i hi
  cases hm : m.getLsbD i with
  | false => simp [← BitVec.getLsbD_eq_getElem, hm]
  | true => simpa [← BitVec.getLsbD_eq_getElem, hm] using h i hi hm

/-! Acceptance (R52). -/

@[simp] theorem statusBusy_statusAccepted (st w : Word) : statusBusy (statusAccepted st w) = true := by
  rw [statusBusy, statusAccepted_getLsbD]; rfl

@[simp] theorem statusErr_statusAccepted (st w : Word) : statusErr (statusAccepted st w) = statusErr st := by
  rw [statusErr, statusAccepted_getLsbD]; rfl

@[simp] theorem statusErrCode_statusAccepted (st w : Word) :
    statusErrCode (statusAccepted st w) = statusErrCode st := by
  apply BitVec.eq_of_getLsbD_eq
  intro i hi
  simp [statusErrCode, statusAccepted_getLsbD, show ¬ 16 ≤ 8 + i by omega]

@[simp] theorem statusLastOp_statusAccepted (st w : Word) : statusLastOp (statusAccepted st w) = opcodeField w := by
  apply BitVec.eq_of_getLsbD_eq
  intro i hi
  simp [statusLastOp, opcodeField, statusAccepted_getLsbD, show 16 + i < 24 by omega]

@[simp] theorem statusAccepted_and_reserved (st w : Word) :
    statusAccepted st w &&& 0xFF00F0FC#32 = st &&& 0xFF00F0FC#32 :=
  and_eq_and_of_getLsbD fun i hi hm => by
    obtain ⟨h0, -, -, hop⟩ := statusReserved_outside_fields i hi hm
    rw [statusAccepted_getLsbD, if_neg h0, if_neg hop]

/-! Completion (60_exceptions.md R210). -/

@[simp] theorem statusBusy_statusCompleted (st : Word) (e : ErrCode) : statusBusy (statusCompleted st e) = false := by
  rw [statusBusy, statusCompleted_getLsbD]; rfl

@[simp] theorem statusErr_statusCompleted (st : Word) (e : ErrCode) :
    statusErr (statusCompleted st e) = (e.code != 0) := by
  rw [statusErr, statusCompleted_getLsbD]; rfl

@[simp] theorem statusErrCode_statusCompleted (st : Word) (e : ErrCode) :
    statusErrCode (statusCompleted st e) = e.code := by
  apply BitVec.eq_of_getLsbD_eq
  intro i hi
  simp [statusErrCode, statusCompleted_getLsbD, hi, show 8 + i ≠ 1 by omega, show 8 + i < 12 by omega]

@[simp] theorem statusLastOp_statusCompleted (st : Word) (e : ErrCode) :
    statusLastOp (statusCompleted st e) = statusLastOp st := by
  apply BitVec.eq_of_getLsbD_eq
  intro i hi
  simp [statusLastOp, statusCompleted_getLsbD, show 16 + i ≠ 1 by omega, show ¬ 16 + i < 12 by omega]

@[simp] theorem statusCompleted_and_reserved (st : Word) (e : ErrCode) :
    statusCompleted st e &&& 0xFF00F0FC#32 = st &&& 0xFF00F0FC#32 :=
  and_eq_and_of_getLsbD fun i hi hm => by
    obtain ⟨h0, h1, hcode, -⟩ := statusReserved_outside_fields i hi hm
    rw [statusCompleted_getLsbD, if_neg h0, if_neg h1, if_neg hcode]

/-! INT_STATUS and INT_ENABLE (R28, R29). -/

/-- What both words leave 0 under a mask, their union leaves 0. -/
theorem or_and_eq_zero {x y m : Word} (hx : x &&& m = 0) (hy : y &&& m = 0) : (x ||| y) &&& m = 0 := by
  rw [BitVec.and_comm, BitVec.and_or_distrib_left, BitVec.and_comm m, hx, BitVec.and_comm m, hy]; rfl

theorem intCompleted_and_reserved {int : Word} (e : ErrCode) (h : int &&& 0xFFFFFFF8#32 = 0) :
    intCompleted int e &&& 0xFFFFFFF8#32 = 0 := by
  rw [intCompleted]
  split
  · exact or_and_eq_zero h (by decide)
  · exact or_and_eq_zero (or_and_eq_zero h (by decide)) (by decide)

/-- Completion clears no INT_STATUS bit (R28). -/
theorem intCompleted_keeps {int : Word} (e : ErrCode) {k : Nat} (h : int.getLsbD k = true) :
    (intCompleted int e).getLsbD k = true := by
  simp [intCompleted_getLsbD, h]

theorem intCompleted_done (int : Word) (e : ErrCode) : (intCompleted int e).getLsbD 0 = true := by
  rw [intCompleted_getLsbD, decide_eq_true rfl, Bool.or_true, Bool.true_or]

theorem intCompleted_err (int : Word) {e : ErrCode} (he : (e.code != 0) = true) :
    (intCompleted int e).getLsbD 1 = true := by
  rw [intCompleted_getLsbD, decide_eq_true rfl, he, Bool.and_true, Bool.or_true]

/-- Completion touches DONE and ERR only. -/
theorem intCompleted_getLsbD_of_two_le (int : Word) (e : ErrCode) {k : Nat} (h : 2 ≤ k) :
    (intCompleted int e).getLsbD k = int.getLsbD k := by
  simp [intCompleted_getLsbD, show k ≠ 0 by omega, show k ≠ 1 by omega]

/-! `irq` (R46). -/

theorem State.irq_iff (s : State) :
    s.irq = true ↔ ∃ k, k < 3 ∧ s.intStatus.getLsbD k = true ∧ s.intEnable.getLsbD k = true := by
  constructor
  · intro h
    simp only [State.irq, Bool.or_eq_true, Bool.and_eq_true] at h
    obtain (⟨hs, he⟩ | ⟨hs, he⟩) | ⟨hs, he⟩ := h
    · exact ⟨0, by decide, hs, he⟩
    · exact ⟨1, by decide, hs, he⟩
    · exact ⟨2, by decide, hs, he⟩
  · rintro ⟨k, hk, hs, he⟩
    interval_cases k <;> simp [State.irq, hs, he]

/-- `irq` stays up where the INT_STATUS bits stay and INT_ENABLE is kept. -/
theorem State.irq_mono {s t : State} (hint : ∀ k, s.intStatus.getLsbD k = true → t.intStatus.getLsbD k = true)
    (hen : t.intEnable = s.intEnable) (h : s.irq = true) : t.irq = true := by
  obtain ⟨k, hk, hs, he⟩ := s.irq_iff.1 h
  exact t.irq_iff.2 ⟨k, hk, hint k hs, hen ▸ he⟩

/-! TYPE_FLAGS and FEATURES (R39, R45). -/

/-- A flag shows under no mask that leaves its place out. -/
theorem flagAt_and_eq_zero {k : Nat} {m : Word} (hm : (1#32 <<< k) &&& m = 0) (b : Bool) : flagAt k b &&& m = 0 := by
  cases b
  · exact BitVec.zero_and
  · exact hm

/-- TYPE_FLAGS bits 31:16 and 7:6 are reserved (R39). -/
theorem classify_and_reserved (p : Params) (t : Word) : classify p t &&& 0xFFFF00C0#32 = 0 := by
  unfold classify
  repeat' apply or_and_eq_zero
  all_goals exact flagAt_and_eq_zero (by decide) _

end Sys2Proof.Machine
end

section
/-! PROOFS. 10_state.md R53, 60_exceptions.md R208: what a command can do before it completes, said once for all commands. -/

namespace Sys2Proof.Machine

open Sys2Proof

/-- `s.Runs i u e`: run at `s`, the command `i` may leave the state `u` and complete it with the error kind `e`. An upper bound on
what `exec` does (`exec_completesAs`): an error says where it may arise, not on which condition. -/
inductive State.Runs (s : State) : Instr → State → ErrCode → Prop
  /-- An error that touches nothing before completion (60_exceptions.md R205). -/
  | raises {i : Instr} {e : ErrCode} (possible : e ∈ possibleErrors i) (isError : e.code ≠ 0) : s.Runs i s e
  /-- An error that records an offset in or just past BUF (10_state.md R43). -/
  | raisesAt {i : Instr} {e : ErrCode} {off : Nat} (possible : e ∈ possibleErrors i) (located : e.code ∈ [1#4, 2#4, 4#4])
      (records : .errOff ∈ resultsWritten i) (offset : off ≤ s.params.bufBytes) :
      s.Runs i { s with errOff := word32 off } e
  | nop : s.Runs .nop s .none
  | crcInit : s.Runs .crcInit { s with crcState := 0xFFFFFFFF#32 } .none
  | crcUpdate (range : s.inBuf s.src.toNat s.len.toNat) :
      s.Runs .crcUpdate { s with crcState := crcFold s.crcState (s.bytesAt s.src.toNat s.len.toNat) } .none
  | crcFinal : s.Runs .crcFinal { s with crcResult := s.crcState ^^^ 0xFFFFFFFF#32 } .none
  | chunkNew (range : s.inBuf s.src.toNat s.len.toNat) :
      s.Runs .chunkNew { s with
        chunkLen := s.len, crcResult := crcChunk s.type (s.bytesAt s.src.toNat s.len.toNat) } .none
  | typeClassify : s.Runs .typeClassify { s with typeFlags := classify s.params s.type } .none
  | typeCheckText (letters : isAlphaType s.type = true) :
      s.Runs .typeCheckText { s with typeFlags := classify s.params s.type } .none
  | chunkParse {len type crc : Word} (range : s.inBuf s.src.toNat (recordSize len.toNat))
      (framed : s.frame s.src.toNat s.len.toNat = .record len type crc crc) :
      s.Runs .chunkParse (s.loadRecord s.src.toNat len type crc crc) .none
  /-- The loads of a record stand on CRC_MISMATCH (42_chunk.md R141). -/
  | chunkParseMismatch {len type stored computed : Word} (range : s.inBuf s.src.toNat (recordSize len.toNat))
      (framed : s.frame s.src.toNat s.len.toNat = .record len type stored computed) (differ : computed ≠ stored) :
      s.Runs .chunkParse
        { s.loadRecord s.src.toNat len type stored computed with errOff := word32 s.src.toNat } .crcMismatch
  | chunkSerialize {bs : List Byte} {crc : Word} (range : s.inBuf s.dst.toNat (recordSize s.len.toNat))
      (crcOf : crc = crcChunk s.type (s.bytesAt s.src.toNat s.len.toNat))
      (bytes : bs = recordBytes s.type (s.bytesAt s.src.toNat s.len.toNat)) :
      s.Runs .chunkSerialize { s.withBytes s.dst.toNat bs with
        chunkLen := s.len, crcResult := crc, next := word32 (s.dst.toNat + recordSize s.len.toNat) } .none
  | sigCheck (range : s.inBuf s.src.toNat 8) :
      s.Runs .sigCheck { s with next := word32 (s.src.toNat + 8) } .none
  | sigWrite (range : s.inBuf s.dst.toNat 8) :
      s.Runs .sigWrite { s.withBytes s.dst.toNat sig with next := word32 (s.dst.toNat + 8) } .none
  /-- `count` records of at least 12 bytes each stand between the signature and the end of the stream (43_stream.md R164). -/
  | streamParse {count fin : Nat} (range : fin ≤ s.params.bufBytes) (records : 8 + 12 * count ≤ fin) :
      s.Runs .streamParse { s with chunkCount := word32 count, next := word32 fin } .none

/-- `r` completes the command `i` run at `s`. -/
def State.CompletesAs (s : State) (i : Instr) (r : Result) : Prop := ∃ u e, s.Runs i u e ∧ r = .next (u.complete e)

theorem State.Runs.completes {s u : State} {i : Instr} {e : ErrCode} (h : s.Runs i u e) :
    s.CompletesAs i (.next (u.complete e)) := ⟨u, e, h, rfl⟩

theorem State.completesAs_raise {s : State} {i : Instr} {e : ErrCode} (possible : e ∈ possibleErrors i)
    (isError : e.code ≠ 0) : s.CompletesAs i (s.raise e) :=
  (Runs.raises possible isError).completes

theorem State.completesAs_raiseAt {s : State} {i : Instr} {e : ErrCode} {off : Nat} (possible : e ∈ possibleErrors i)
    (located : e.code ∈ [1#4, 2#4, 4#4]) (records : .errOff ∈ resultsWritten i) (offset : off ≤ s.params.bufBytes) :
    s.CompletesAs i (s.raiseAt e off) :=
  (Runs.raisesAt possible located records offset).completes

/-- A range that lies in BUF starts in or just past it. -/
theorem State.inBuf_start {s : State} {a n : Nat} (h : s.inBuf a n) : a ≤ s.params.bufBytes :=
  le_trans (Nat.le_add_right a n) h

/-- A range that lies in BUF holds every shorter one from the same offset. -/
theorem State.inBuf_shorter {s : State} {a m n : Nat} (h : s.inBuf a n) (hmn : m ≤ n) : s.inBuf a m :=
  le_trans (Nat.add_le_add_left hmn a) h

theorem State.completesAs_crcUpdate (s : State) : s.CompletesAs .crcUpdate (execCrcUpdate s) := by
  unfold execCrcUpdate
  split
  case isTrue range =>
    rw [State.reading_eq range]
    exact (Runs.crcUpdate range).completes
  case isFalse => exact completesAs_raise (by decide) (by decide)

theorem State.completesAs_chunkNew (s : State) : s.CompletesAs .chunkNew (execChunkNew s) := by
  unfold execChunkNew
  split
  case isTrue range =>
    rw [State.reading_eq range]
    exact (Runs.chunkNew range).completes
  case isFalse => exact completesAs_raise (by decide) (by decide)

theorem State.completesAs_typeCheckText (s : State) : s.CompletesAs .typeCheckText (execTypeCheckText s) := by
  unfold execTypeCheckText
  split
  case isTrue letters => exact (Runs.typeCheckText letters).completes
  case isFalse => exact completesAs_raise (by decide) (by decide)

theorem State.completesAs_chunkParse (s : State) : s.CompletesAs .chunkParse (execChunkParse s) := by
  unfold execChunkParse
  split
  case isTrue range =>
    rw [State.framing_eq range]
    obtain framed | ⟨len, type, stored, computed, framed, fits, -⟩ := s.frame_cases s.src.toNat s.len.toNat
    · rw [framed]
      exact completesAs_raiseAt (by decide) (by decide) (by decide) (inBuf_start range)
    · simp only [framed]
      split
      case isTrue same =>
        subst same
        exact (Runs.chunkParse (inBuf_shorter range fits) framed).completes
      case isFalse differ => exact (Runs.chunkParseMismatch (inBuf_shorter range fits) framed differ).completes
  case isFalse => exact completesAs_raise (by decide) (by decide)

theorem State.completesAs_chunkSerialize (s : State) : s.CompletesAs .chunkSerialize (execChunkSerialize s) := by
  unfold execChunkSerialize
  split
  case isTrue ranges =>
    obtain ⟨source, dest⟩ := ranges
    split
    case isTrue => exact completesAs_raise (by decide) (by decide)
    case isFalse =>
      rw [State.reading_eq source, State.storing_eq (by simpa using dest)]
      exact (Runs.chunkSerialize dest rfl rfl).completes
  case isFalse => exact completesAs_raise (by decide) (by decide)

/-- The signature checks end the command with an error of their own, or leave it to what follows them. -/
theorem State.completesAs_checkingSig {s : State} {i : Instr} {k : Result} (range : s.inBuf s.src.toNat s.len.toNat)
    (truncated : .truncated ∈ possibleErrors i) (badSignature : .badSignature ∈ possibleErrors i)
    (records : .errOff ∈ resultsWritten i) (passed : 8 ≤ s.len.toNat → s.CompletesAs i k) :
    s.CompletesAs i (s.checkingSig k) := by
  obtain ⟨-, h⟩ | ⟨h8, -, h⟩ | ⟨-, -, h⟩ := State.checkingSig_cases range k
  · rw [h]
    exact completesAs_raiseAt truncated (by decide) records (inBuf_start range)
  · rw [h]
    exact passed h8
  · rw [h]
    exact completesAs_raiseAt badSignature (by decide) records (inBuf_start range)

theorem State.completesAs_sigCheck (s : State) : s.CompletesAs .sigCheck (execSigCheck s) := by
  unfold execSigCheck
  split
  case isTrue range =>
    exact completesAs_checkingSig range (by decide) (by decide) (by decide) fun h8 =>
      (Runs.sigCheck (inBuf_shorter range h8)).completes
  case isFalse => exact completesAs_raise (by decide) (by decide)

theorem State.completesAs_sigWrite (s : State) : s.CompletesAs .sigWrite (execSigWrite s) := by
  unfold execSigWrite
  split
  case isTrue range =>
    rw [State.storing_eq range]
    exact (Runs.sigWrite range).completes
  case isFalse => exact completesAs_raise (by decide) (by decide)

/-- The walk completes: a record has at least 12 bytes and ends before `fin`, so fuel for the bytes left is enough (43_stream.md R164). -/
theorem State.completesAs_walk {s : State} {fin : Nat} (range : fin ≤ s.params.bufBytes) :
    ∀ fuel cur count : Nat, fin ≤ cur + fuel → cur ≤ fin → 8 + 12 * count ≤ cur →
      s.CompletesAs .streamParse (s.walk fin fuel cur count)
  | 0, cur, count, enough, before, records => by
    rw [State.walk, if_neg (by omega)]
    exact (Runs.streamParse range (by omega)).completes
  | fuel + 1, cur, count, enough, before, records => by
    rw [State.walk]
    split
    case isTrue more =>
      have left : s.inBuf cur (fin - cur) := by simp only [State.inBuf]; omega
      rw [State.framing_eq left]
      obtain framed | ⟨len, type, stored, computed, framed, fits, -⟩ := s.frame_cases cur (fin - cur)
      · rw [framed]
        exact completesAs_raiseAt (by decide) (by decide) (by decide) (inBuf_start left)
      · simp only [framed]
        split
        case isTrue =>
          simp only [recordSize] at fits ⊢
          exact completesAs_walk range fuel _ _ (by omega) (by omega) (by omega)
        case isFalse => exact completesAs_raiseAt (by decide) (by decide) (by decide) (inBuf_start left)
    case isFalse => exact (Runs.streamParse range (by omega)).completes

theorem State.completesAs_streamParse (s : State) : s.CompletesAs .streamParse (execStreamParse s) := by
  unfold execStreamParse
  split
  case isTrue range =>
    exact completesAs_checkingSig range (by decide) (by decide) (by decide) fun h8 =>
      completesAs_walk range _ _ _ (by omega) (by omega) (by omega)
  case isFalse => exact completesAs_raise (by decide) (by decide)

/-- Every command completes, in one of the ways of `State.Runs` (60_exceptions.md R208). -/
theorem exec_completesAs (i : Instr) (s : State) : s.CompletesAs i (exec i s) := by
  cases i with
  | nop => exact State.Runs.nop.completes
  | crcInit => exact State.Runs.crcInit.completes
  | crcUpdate => exact s.completesAs_crcUpdate
  | crcFinal => exact State.Runs.crcFinal.completes
  | chunkNew => exact s.completesAs_chunkNew
  | typeClassify => exact State.Runs.typeClassify.completes
  | typeCheckText => exact s.completesAs_typeCheckText
  | chunkParse => exact s.completesAs_chunkParse
  | chunkSerialize => exact s.completesAs_chunkSerialize
  | sigCheck => exact s.completesAs_sigCheck
  | sigWrite => exact s.completesAs_sigWrite
  | streamParse => exact s.completesAs_streamParse
  | badCommand w => exact State.completesAs_raise (i := .badCommand w) (List.mem_singleton.2 rfl) (by decide)

/-- What a command that answers `t` did. -/
theorem exec_runs {i : Instr} {s t : State} (h : exec i s = .next t) : ∃ u e, s.Runs i u e ∧ t = u.complete e := by
  obtain ⟨u, e, runs, heq⟩ := exec_completesAs i s
  exact ⟨u, e, runs, by rw [h] at heq; injection heq⟩

end Sys2Proof.Machine
end

section
/-! PROOFS. 10_state.md R22, R26, R28, R43, R47: the frame of a command, and the statements about what it leaves alone. -/

namespace Sys2Proof.Machine

open Sys2Proof

namespace State.Runs

variable {s u : State} {i : Instr} {e : ErrCode}

/-- A command moves result registers and BUF only. -/
theorem frame (h : s.Runs i u e) : u = { s with
    crcState := u.crcState, crcResult := u.crcResult, chunkLen := u.chunkLen, chunkCrc := u.chunkCrc, ptype := u.ptype
    typeFlags := u.typeFlags, next := u.next, chunkCount := u.chunkCount, errOff := u.errOff, buf := u.buf } := by
  cases h <;> rfl

/-- Completion finds the STATUS, INT_STATUS and INT_ENABLE that the command was started with. -/
theorem flags (h : s.Runs i u e) : u.status = s.status ∧ u.intStatus = s.intStatus ∧ u.intEnable = s.intEnable := by
  rw [h.frame]
  exact ⟨rfl, rfl, rfl⟩

theorem error_possible (h : s.Runs i u e) : e ∈ possibleErrors i := by
  cases h with
  | raises possible => exact possible
  | raisesAt possible => exact possible
  | _ => decide

/-- No command raises code 3 (60_exceptions.md R201). -/
theorem error_ne_unknownLength (h : s.Runs i u e) : e ≠ .unknownLength := by
  rintro rfl
  have possible := h.error_possible
  cases i <;> simp [possibleErrors] at possible

/-- A command moves no CSR but its own result registers (30_encoding.md R83). -/
theorem readCsr_eq (h : s.Runs i u e) {r : Csr} (hr : r ∉ resultsWritten i) : u.readCsr r = s.readCsr r := by
  cases h with
  | raises => rfl
  | raisesAt _ _ records =>
    have : r ≠ .errOff := fun heq => hr (heq ▸ records)
    revert this
    cases r <;> simp [State.readCsr]
  | _ =>
    revert hr
    cases r <;> simp [State.readCsr, resultsWritten]

end State.Runs

/-- Completion shows in STATUS and INT_STATUS only. -/
theorem State.readCsr_complete (s : State) (e : ErrCode) {r : Csr} (h1 : r ≠ .status) (h2 : r ≠ .intStatus) :
    (s.complete e).readCsr r = s.readCsr r := by
  revert h1 h2
  cases r <;> simp [State.readCsr]

/-- Settles O47: the frame of every command, and completion, which is outside every register named here. -/
theorem registerFrame : Obligations.RegisterFrame := by
  intro i s t h
  obtain ⟨u, e, runs, rfl⟩ := exec_runs h
  refine ⟨fun r hr => ?_, ?_⟩
  · simp only [csrsWritten, List.mem_cons, not_or] at hr
    obtain ⟨hstatus, hint, hresults⟩ := hr
    rw [u.readCsr_complete e hstatus hint, runs.readCsr_eq hresults]
  · rw [runs.frame]
    exact ⟨rfl, rfl, rfl, rfl, rfl, rfl, rfl, rfl, rfl⟩

/-- Settles O49: the command keeps STATUS and INT_STATUS, so completion alone decides their bits. -/
theorem statusFrame : Obligations.StatusFrame := by
  intro i s t h
  obtain ⟨u, e, runs, rfl⟩ := exec_runs h
  obtain ⟨hstatus, hint, -⟩ := runs.flags
  simp only [State.complete_status, State.complete_intStatus, hstatus, hint]
  exact ⟨statusLastOp_statusCompleted _ _, statusCompleted_and_reserved _ _,
    fun k hk => intCompleted_getLsbD_of_two_le _ _ hk, fun k hk => intCompleted_keeps _ hk⟩

namespace State.Runs

variable {s u : State} {i : Instr} {e : ErrCode}

/-- A command that ends with an error leaves BUF and the result registers, but for ERR_OFF and the loads of a CHUNK_PARSE that
ends with CRC_MISMATCH (60_exceptions.md R205, R207). -/
theorem error_keeps (h : s.Runs i u e) (he : e.code ≠ 0) :
    u.buf = s.buf ∧ ((i = .chunkParse ∧ e = .crcMismatch) ∨ u = { s with errOff := u.errOff }) := by
  cases h with
  | raises => exact ⟨rfl, .inr rfl⟩
  | raisesAt => exact ⟨rfl, .inr rfl⟩
  | chunkParseMismatch => exact ⟨rfl, .inl ⟨rfl, rfl⟩⟩
  | _ => exact absurd rfl he

/-- ERR_OFF moves with the codes 1, 2 and 4 only (R43). -/
theorem errOff_eq (h : s.Runs i u e) (he : e.code ∉ [1#4, 2#4, 4#4]) : u.errOff = s.errOff := by
  cases h with
  | raisesAt _ located => exact absurd located he
  | chunkParseMismatch => exact absurd (by decide) he
  | _ => rfl

end State.Runs

/-- Settles O50: STATUS tells with which error the command ended. -/
theorem errorsArePrecise : Obligations.ErrorsArePrecise := by
  intro i s t h
  obtain ⟨u, e, runs, rfl⟩ := exec_runs h
  simp only [State.complete_status, statusErr_statusCompleted, statusErrCode_statusCompleted, bne_iff_ne]
  refine ⟨fun he => ?_, runs.errOff_eq⟩
  obtain ⟨hbuf, ⟨hi, rfl⟩ | hu⟩ := runs.error_keeps he
  · exact ⟨hbuf, .inl ⟨hi, rfl⟩⟩
  · refine ⟨hbuf, .inr fun r hr => ?_⟩
    rw [hu]
    fin_cases hr <;> rfl

end Sys2Proof.Machine
end

section
/-! PROOFS. 10_state.md R20, R23, R52 to R55 and 20_memory.md R65: the host's accesses, BUSY and IDLE. -/

namespace Sys2Proof.Machine

open Sys2Proof

/-- A CSR is found at its own offset only (R22). -/
theorem offset_of_csrAt {off : Nat} {r : Csr} (h : csrAt off = some r) : off = r.offset := by
  unfold csrAt at h
  split at h <;> cases h <;> rfl

namespace State

variable {s : State}

/-! Reads. -/

theorem hostReadCsr_unspecified {r : Csr} (hb : s.seq.isBusy = true) (hr : r.unspecifiedWhileBusy = true) :
    s.hostReadCsr r = ({ s with draws := s.draws + 1 }, .word (Config.freeWord s.draws)) := by
  simp [hostReadCsr, hb, hr]

theorem hostReadCsr_defined {r : Csr} (hr : r.unspecifiedWhileBusy = false) :
    s.hostReadCsr r = (s, .word (s.readCsr r)) := by
  simp [hostReadCsr, hr]

theorem hostReadCsr_idle (hs : s.seq = .idle) (r : Csr) : s.hostReadCsr r = (s, .word (s.readCsr r)) := by
  simp [hostReadCsr, hs, Seq.isBusy]

/-! Writes. -/

theorem unlessBusy_busy (hb : s.seq.isBusy = true) (t : State) :
    s.unlessBusy t = { s with intStatus := s.intStatus ||| intOvr } := if_pos hb

theorem unlessBusy_idle (hs : s.seq = .idle) (t : State) : s.unlessBusy t = t := by
  simp [unlessBusy, hs, Seq.isBusy]

/-- A write that needs the block IDLE only sets OVR while BUSY (R55). -/
theorem hostWriteCsr_dropped (hb : s.seq.isBusy = true) {r : Csr}
    (hr : r ∈ [Csr.cmd, .src, .len, .dst, .type, .crcState]) (d : Word) :
    s.hostWriteCsr r d = { s with intStatus := s.intStatus ||| intOvr } := by
  fin_cases hr <;> exact unlessBusy_busy hb _

/-- A write of a read-only register is ignored (R23). -/
theorem hostWriteCsr_readOnly {r : Csr}
    (hr : r ∈ [Csr.id, .status, .crcResult, .chunkLen, .chunkCrc, .ptype, .typeFlags, .next, .chunkCount, .errOff, .config,
      .features]) (d : Word) : s.hostWriteCsr r d = s := by
  fin_cases hr <;> rfl

/-- While IDLE an operand register or CRC_STATE takes the value written, and the block stays IDLE. -/
theorem hostWriteCsr_operand (hs : s.seq = .idle) {r : Csr} (hr : r ∈ [Csr.src, .len, .dst, .type, .crcState]) (d : Word) :
    (s.hostWriteCsr r d).seq = .idle ∧ (s.hostWriteCsr r d).readCsr r = d := by
  fin_cases hr <;> simp [hostWriteCsr, unlessBusy_idle hs, readCsr, hs]

theorem access_csrw_idle (hs : s.seq = .idle) {r : Csr} {d : Word} {t : State} (h : s.hostWriteCsr r d = s.unlessBusy t) :
    s.access (csrw r d) = (t, .written) := by
  rw [access_csrw, h, unlessBusy_idle hs]

/-- While IDLE a register reads back what it holds after a write that leaves the block IDLE. -/
theorem readBack {r : Csr} {d : Word} (hs : (s.hostWriteCsr r d).seq = .idle) :
    ((s.access (csrw r d)).1.access (csrr r)).2 = .word ((s.hostWriteCsr r d).readCsr r) := by
  rw [access_csrw, access_csrr, hostReadCsr_idle hs]

/-! What an access can do. -/

theorem busError_state (s : State) (dir : Dir) : ∃ n, (s.busError dir).1 = { s with draws := n } := by
  cases dir
  · exact ⟨s.draws + 1, rfl⟩
  · exact ⟨s.draws, rfl⟩

theorem hostReadCsr_state (s : State) (r : Csr) : ∃ n, (s.hostReadCsr r).1 = { s with draws := n } := by
  unfold hostReadCsr
  split
  · exact ⟨s.draws + 1, rfl⟩
  · exact ⟨s.draws, rfl⟩

/-- A legal BUF write stores bytes that lie in BUF (20_memory.md R64). -/
theorem bufWrite_state {off width : Nat} (hl : s.bufLegal off width) (d : Word) :
    ∃ bs, s.inBuf off bs.length ∧ s.bufWrite off width d = s.withBytes off bs := by
  obtain ⟨rfl, hin⟩ | ⟨rfl, -, hin⟩ := hl
  · exact ⟨[d.extractLsb' 0 8], hin, rfl⟩
  · exact ⟨bytes32 d, hin, rfl⟩

/-- What a host access does to the block, and by which access: a draw at most, a write of a CSR, or a BUF write while IDLE. -/
theorem access_effect (s : State) (a : Access) :
    (∃ n, (s.access a).1 = { s with draws := n }) ∨
    (∃ r d, a = csrw r d ∧ (s.access a).1 = s.hostWriteCsr r d) ∨
    (s.seq.isBusy = false ∧ ∃ off bs, s.inBuf off bs.length ∧ (s.access a).1 = s.withBytes off bs) := by
  obtain ⟨port, off, width, dir⟩ := a
  cases port with
  | csr =>
    simp only [access, csrAccess]
    split
    case isTrue legal =>
      split
      case h_1 r _ => exact .inl (s.hostReadCsr_state r)
      case h_2 r d found =>
        obtain ⟨rfl, -, -⟩ := legal
        exact .inr (.inl ⟨r, d, by rw [offset_of_csrAt found]; rfl, rfl⟩)
      · exact .inl ⟨s.draws, rfl⟩
      · exact .inl ⟨s.draws, rfl⟩
    case isFalse => exact .inl (s.busError_state dir)
  | buf =>
    simp only [access, bufAccess]
    split
    case isTrue legal =>
      obtain ⟨hb, hl⟩ := legal
      cases dir with
      | read => exact .inl ⟨s.draws, rfl⟩
      | write d =>
        obtain ⟨bs, hin, hbs⟩ := bufWrite_state hl d
        exact .inr (.inr ⟨by simpa using hb, off, bs, hin, hbs⟩)
    case isFalse => exact .inl (s.busError_state dir)

/-- While BUSY, a CSR write that is no soft reset moves INT_STATUS and INT_ENABLE at most. -/
theorem hostWriteCsr_busy (hb : s.seq.isBusy = true) {r : Csr} {d : Word} (hr : (csrw r d).isSoftReset = false) :
    s.hostWriteCsr r d = { s with
      intStatus := (s.hostWriteCsr r d).intStatus, intEnable := (s.hostWriteCsr r d).intEnable } := by
  cases r with
  | ctrl =>
    have noReset : d.getLsbD 0 = false := hr
    rw [hostWriteCsr, noReset]
    rfl
  | cmd | src | len | dst | type | crcState => rw [hostWriteCsr_dropped hb (by decide)]
  | _ => rfl

/-- While BUSY, a response shows nothing but the count of draws and the registers that stay defined (R54). -/
theorem access_response_congr {t : State} (hs : s.seq.isBusy = true) (ht : t.seq.isBusy = true) (draws : t.draws = s.draws)
    (defined : ∀ r : Csr, r.unspecifiedWhileBusy = false → t.readCsr r = s.readCsr r) (a : Access) :
    (t.access a).2 = (s.access a).2 := by
  have hbus (dir : Dir) : (t.busError dir).2 = (s.busError dir).2 := by
    cases dir <;> simp [busError, draws]
  have hread (r : Csr) : (t.hostReadCsr r).2 = (s.hostReadCsr r).2 := by
    cases hr : r.unspecifiedWhileBusy
    · rw [hostReadCsr_defined hr, hostReadCsr_defined hr, defined r hr]
    · rw [hostReadCsr_unspecified hs hr, hostReadCsr_unspecified ht hr, draws]
  obtain ⟨port, off, width, dir⟩ := a
  cases port with
  | csr =>
    simp only [access, csrAccess]
    split
    · split
      · exact hread _
      · rfl
      · rfl
      · rfl
    · exact hbus dir
  | buf =>
    simp only [access, bufAccess_busy hs, bufAccess_busy ht]
    exact hbus dir

end State

theorem Seq.isBusy_of_eq {q : Seq} {w : Word} (h : q = .busy w) : q.isBusy = true := by
  rw [h]; rfl

/-- Settles O15: while BUSY the access can neither write BUF nor take a CSR that the command uses. -/
theorem busyAccessLeavesCommandAlone : Obligations.BusyAccessLeavesCommandAlone := by
  intro s w a hs ha
  have hb := Seq.isBusy_of_eq hs
  obtain ⟨n, h⟩ | ⟨r, d, rfl, h⟩ | ⟨idle, -⟩ := s.access_effect a
  · rw [h]
  · rw [h, State.hostWriteCsr_busy hb ha]
  · rw [hb] at idle
    contradiction

/-- Settles O16: the two states agree on what a response shows while BUSY. -/
theorem busyResponsesRevealNothing : Obligations.BusyResponsesRevealNothing := by
  intro s w a b v0 v1 v2 v3 v4 v5 v6 v7 v8 hs
  have hb := Seq.isBusy_of_eq hs
  refine State.access_response_congr hb ?_ ?_ (fun r hr => ?_) a
  · exact hb
  · rfl
  · revert hr
    cases r <;> simp [Csr.unspecifiedWhileBusy, State.readCsr]

/-- Settles O17: dropped writes, writes that take effect, BUF accesses, then what is ignored in every state. -/
theorem writesWhileBusy : Obligations.WritesWhileBusy := by
  refine fun s => ⟨fun w hs => ?_, fun r hr d => ?_, fun off h4 hlo hhi d => s.access_reserved h4 hlo hhi (.write d)⟩
  · have hb := Seq.isBusy_of_eq hs
    refine ⟨fun r hr d => ?_, fun d => s.access_csrw .ctrl d, fun d => s.access_csrw .intStatus d,
      fun d => s.access_csrw .intEnable d, fun off width => ⟨⟨_, State.bufAccess_busy hb off width .read⟩,
        fun d => State.bufAccess_busy hb off width (.write d)⟩⟩
    rw [State.access_csrw, State.hostWriteCsr_dropped hb hr]
    rfl
  · rw [State.access_csrw, State.hostWriteCsr_readOnly hr]

/-- Settles O18: the registers of R54 are the ones drawn. -/
theorem readsWhileBusy : Obligations.ReadsWhileBusy := by
  refine fun s w hs => ⟨fun r hr => ?_, fun r hr => ?_, fun off h4 hlo hhi => s.access_reserved h4 hlo hhi .read⟩
  · have unspecified : r.unspecifiedWhileBusy = true := by fin_cases hr <;> rfl
    rw [State.access_csrr, State.hostReadCsr_unspecified (Seq.isBusy_of_eq hs) unspecified]
  · have defined : r.unspecifiedWhileBusy = false := by fin_cases hr <;> rfl
    rw [State.access_csrr, State.hostReadCsr_defined defined]

/-- The reserved bits read 0 in every state that meets the invariant. -/
theorem State.Inv.reserved_read_zero {s : State} (h : s.Inv) :
    s.readCsr .status &&& 0xFF00F0FC#32 = 0 ∧ s.readCsr .intStatus &&& 0xFFFFFFF8#32 = 0 ∧
      s.readCsr .intEnable &&& 0xFFFFFFF8#32 = 0 ∧ s.readCsr .typeFlags &&& 0xFFFF00C0#32 = 0 ∧
      s.readCsr .features &&& 0xFFFFFFFE#32 = 0 := by
  refine ⟨h.statusReserved, h.intStatusReserved, h.intEnableReserved, ?_, flagAt_and_eq_zero (by decide) _⟩
  obtain h0 | ⟨t, ht⟩ := h.typeFlags
  · simp [State.readCsr, h0]
  · rw [State.readCsr, ht, classify_and_reserved]

/-- Settles O19: one host read or write per register, by its access type. -/
theorem registerAccessWhileIdle : Obligations.RegisterAccessWhileIdle := by
  intro s hs
  refine ⟨fun r => ?_, rfl, rfl, rfl, fun r hr d => ?_, fun d => State.access_csrw_idle hs rfl,
    fun d => State.access_csrw_idle hs rfl, fun d => State.access_csrw_idle hs rfl, fun d => State.access_csrw_idle hs rfl,
    fun d => State.access_csrw_idle hs rfl, fun d => s.access_csrw .intEnable d, fun d => s.access_csrw .intStatus d,
    fun r hr d => ?_, fun d => State.readBack hs, fun d => s.access_csrw .ctrl d, fun d => State.access_csrw_idle hs rfl,
    State.Inv.reserved_read_zero, fun off h4 hlo hhi => ⟨s.access_reserved h4 hlo hhi .read, fun d =>
      s.access_reserved h4 hlo hhi (.write d)⟩⟩
  · rw [State.access_csrr, State.hostReadCsr_idle hs]
  · rw [State.access_csrw, State.hostWriteCsr_readOnly hr]
  · obtain ⟨idle, value⟩ := State.hostWriteCsr_operand hs hr d
    rw [State.readBack idle, value]

/-- Settles O11: a CMD write while IDLE is acceptance, and R52 fixes every bit of STATUS. -/
theorem acceptanceOfCommand : Obligations.AcceptanceOfCommand := fun s w hs =>
  ⟨statusAccepted s.status w, State.access_csrw_idle hs rfl, statusBusy_statusAccepted _ _, statusLastOp_statusAccepted _ _,
    statusErr_statusAccepted _ _, statusErrCode_statusAccepted _ _, statusAccepted_and_reserved _ _⟩

end Sys2Proof.Machine
end

section
/-! PROOFS. 10_state.md R28, R46, R53: what a step is made of, the stickiness of INT_STATUS, and `irq`. -/

namespace Sys2Proof.Machine

open Sys2Proof

/-! The turn of the step, by who moves. -/

section Turns

variable {s t : State} {w : Word}

theorem State.blockTurn_busy (hs : s.seq = .busy w) : s.blockTurn = .completes w s := by
  simp only [State.blockTurn, hs]

theorem State.blockTurn_idle (hs : s.seq = .idle) : s.blockTurn = .moved s := by
  simp only [State.blockTurn, hs]

theorem State.turn_nil (hm : s.moves = []) : s.turn = s.blockTurn := by
  simp only [State.turn, hm]

theorem State.turn_block {rest : List Move} (hm : s.moves = .block :: rest) :
    s.turn = (s.withMoves rest).blockTurn := by
  simp only [State.turn, hm]

/-- The last round of a `wait` that has not seen DONE lets the block complete (30_encoding.md R91). -/
theorem State.turn_wait_zero {rest : List Move} (hs : s.seq = .busy w) (hdone : s.intStatus.getLsbD 0 = false)
    (hm : s.moves = .wait 0 :: rest) : s.turn = .completes w s := by
  simp only [State.turn, hm, State.waitTurn, if_neg (ne_true_of_eq_false hdone), hs]

theorem step_of_completes (h : s.turn = .completes w t) : step s = exec (decodeCommand w) t := by
  rw [step, h]

theorem step_of_moved (h : s.turn = .moved t) : step s = .next t := by
  rw [step, h]

end Turns

/-- Settles O12: each form of the moves hands the accepted word to `exec`, and an IDLE block has none. -/
theorem stepRunsDecodedCommand : Obligations.StepRunsDecodedCommand := fun s _ rest =>
  ⟨fun hs hm => step_of_completes ((State.turn_nil hm).trans (State.blockTurn_busy hs)),
    fun hs hm => step_of_completes ((State.turn_block hm).trans (State.blockTurn_busy (s := s.withMoves rest) hs)),
    fun hs hdone hm => step_of_completes (State.turn_wait_zero hs hdone hm),
    fun hs hm => step_of_moved ((State.turn_nil hm).trans (State.blockTurn_idle hs)),
    fun _ _ => step_of_completes (State.turn_block rfl)⟩

/-! What a step is made of. -/

/-- The step may perform the access `a`: the oldest move holds it, or it is the read of a `wait`. -/
def State.NextAccess (s : State) (a : Access) : Prop :=
  (∃ rest, s.moves = .host a :: rest ∨ s.moves = .both a :: rest) ∨ a = csrr .intStatus

/-- A `wait` writes no CSR. -/
theorem State.NextAccess.moves_of_csrw {s : State} {r : Csr} {d : Word} (h : s.NextAccess (csrw r d)) :
    ∃ rest, s.moves = .host (csrw r d) :: rest ∨ s.moves = .both (csrw r d) :: rest := by
  obtain h | h := h
  · exact h
  · simp [csrw, csrr] at h

/-- `u` is what the host's part of a step leaves of `s`: other moves to come, and one access performed at most. -/
def State.HostPart (s u : State) : Prop :=
  ∃ ms, u = s.withMoves ms ∨ ∃ a, s.NextAccess a ∧ u = (s.withMoves ms).perform a

/-- A turn after the host's part of a step: it completes the pending word, if any. -/
def Turn.AfterHost (s : State) : Turn → Prop
  | .completes w u => s.HostPart u ∧ u.seq = .busy w
  | .moved u => s.HostPart u

theorem State.HostPart.blockTurn {s u : State} (h : s.HostPart u) : u.blockTurn.AfterHost s := by
  unfold State.blockTurn
  split
  case h_1 hs => exact ⟨h, hs⟩
  case h_2 => exact h

theorem State.turn_afterHost (s : State) : s.turn.AfterHost s := by
  unfold State.turn
  split
  case h_1 => exact HostPart.blockTurn ⟨s.moves, .inl rfl⟩
  case h_2 rest _ => exact HostPart.blockTurn ⟨rest, .inl rfl⟩
  case h_3 a rest hm => exact ⟨rest, .inr ⟨a, .inl ⟨rest, .inl hm⟩, rfl⟩⟩
  case h_4 a rest hm =>
    have performed : s.HostPart ((s.withMoves rest).perform a) := ⟨rest, .inr ⟨a, .inl ⟨rest, .inr hm⟩, rfl⟩⟩
    unfold State.bothTurn
    split
    · exact performed.blockTurn
    · exact performed
  case h_5 polls rest _ =>
    have performed (ms : List Move) : s.HostPart ((s.withMoves ms).perform (csrr .intStatus)) :=
      ⟨ms, .inr ⟨_, .inr rfl, rfl⟩⟩
    unfold State.waitTurn
    split
    · exact performed rest
    · split
      case h_1 hs _ => exact ⟨⟨s.moves, .inl rfl⟩, hs⟩
      case h_2 polls' _ _ => exact performed (.wait polls' :: rest)
      case h_3 => exact performed s.moves

/-- A step is the host's part, and then the completion of a pending command or nothing. -/
theorem step_parts {s t : State} (h : step s = .next t) :
    ∃ u, s.HostPart u ∧ (t = u ∨ ∃ i, exec i u = .next t) := by
  have after := s.turn_afterHost
  obtain ⟨w, u, hu, heq⟩ | ⟨u, hu, heq⟩ := step_eq s
  · rw [hu] at after
    exact ⟨u, after.1, .inr ⟨_, heq.symm.trans h⟩⟩
  · rw [hu] at after
    rw [heq] at h
    injection h with h
    exact ⟨u, after, .inl h.symm⟩

/-! Flags under an access. -/

/-- The writes that can clear an INT_STATUS bit or move INT_ENABLE. -/
def irqWrites : List Csr := [.ctrl, .intStatus, .intEnable]

theorem State.unlessBusy_flags {s t : State} (hint : t.intStatus = s.intStatus) (hen : t.intEnable = s.intEnable) :
    (∀ k, s.intStatus.getLsbD k = true → (s.unlessBusy t).intStatus.getLsbD k = true) ∧
      (s.unlessBusy t).intEnable = s.intEnable := by
  obtain ⟨-, h⟩ | ⟨-, h⟩ := s.unlessBusy_cases t
  · rw [h]
    exact ⟨fun k hk => by simp only [BitVec.getLsbD_or, hk, Bool.true_or], rfl⟩
  · rw [h]
    exact ⟨fun k hk => hint ▸ hk, hen⟩

/-- Every other write clears no INT_STATUS bit and keeps INT_ENABLE. -/
theorem State.hostWriteCsr_flags (s : State) {r : Csr} (hr : r ∉ irqWrites) (d : Word) :
    (∀ k, s.intStatus.getLsbD k = true → (s.hostWriteCsr r d).intStatus.getLsbD k = true) ∧
      (s.hostWriteCsr r d).intEnable = s.intEnable := by
  cases r with
  | ctrl | intStatus | intEnable => exact absurd (by decide) hr
  | cmd | src | len | dst | type | crcState => exact unlessBusy_flags rfl rfl
  | _ => exact ⟨fun _ hk => hk, rfl⟩

/-- The writes that take an INT_STATUS bit from 1 to 0. -/
theorem State.hostWriteCsr_clears {s : State} {r : Csr} {d : Word} {k : Nat} (hs : s.intStatus.getLsbD k = true)
    (ht : (s.hostWriteCsr r d).intStatus.getLsbD k = false) :
    (r = .ctrl ∧ d.getLsbD 0 = true) ∨ (r = .intStatus ∧ d.getLsbD k = true) := by
  cases r with
  | ctrl =>
    refine .inl ⟨rfl, ?_⟩
    by_contra noReset
    rw [hostWriteCsr, if_neg noReset] at ht
    exact ne_true_of_eq_false ht hs
  | intStatus => exact .inr ⟨rfl, by simpa [hostWriteCsr, hs, BitVec.lt_of_getLsbD hs] using ht⟩
  | intEnable => exact absurd hs (ne_true_of_eq_false ht)
  | _ =>
    refine absurd ((s.hostWriteCsr_flags ?_ d).1 k hs) (ne_true_of_eq_false ht)
    decide

theorem State.access_clears {s : State} {a : Access} {k : Nat} (hs : s.intStatus.getLsbD k = true)
    (ht : (s.access a).1.intStatus.getLsbD k = false) :
    ∃ r d, a = csrw r d ∧ ((r = .ctrl ∧ d.getLsbD 0 = true) ∨ (r = .intStatus ∧ d.getLsbD k = true)) := by
  obtain ⟨n, h⟩ | ⟨r, d, rfl, h⟩ | ⟨-, off, bs, -, h⟩ := s.access_effect a
  · rw [h] at ht
    exact absurd hs (ne_true_of_eq_false ht)
  · rw [h] at ht
    exact ⟨r, d, rfl, hostWriteCsr_clears hs ht⟩
  · rw [h] at ht
    exact absurd hs (ne_true_of_eq_false ht)

theorem State.access_drops_irq {s : State} {a : Access} (hs : s.irq = true) (ht : (s.access a).1.irq = false) :
    ∃ r ∈ irqWrites, ∃ d, a = csrw r d := by
  obtain ⟨n, h⟩ | ⟨r, d, rfl, h⟩ | ⟨-, off, bs, -, h⟩ := s.access_effect a
  · rw [h] at ht
    exact absurd hs (ne_true_of_eq_false ht)
  · refine ⟨r, ?_, d, rfl⟩
    by_contra hr
    obtain ⟨hint, hen⟩ := s.hostWriteCsr_flags hr d
    rw [h] at ht
    exact ne_true_of_eq_false ht (irq_mono hint hen hs)
  · rw [h] at ht
    exact absurd hs (ne_true_of_eq_false ht)

/-- A completion drops no INT_STATUS bit and so not `irq`. -/
theorem exec_irq_mono {i : Instr} {s t : State} (h : exec i s = .next t) (hs : s.irq = true) : t.irq = true := by
  obtain ⟨u, e, runs, rfl⟩ := exec_runs h
  obtain ⟨-, hint, hen⟩ := runs.flags
  refine State.irq_mono (fun k hk => ?_) hen hs
  rw [State.complete_intStatus, hint]
  exact intCompleted_keeps e hk

/-- Settles O24: the completion clears no bit, so the access did. -/
theorem intStatusBitsAreSticky : Obligations.IntStatusBitsAreSticky := by
  intro s t k h hs ht
  obtain ⟨u, host, block⟩ := step_parts h
  have hu : u.intStatus.getLsbD k = false := by
    obtain rfl | ⟨i, hi⟩ := block
    · exact ht
    · obtain ⟨-, -, -, sticky⟩ := statusFrame i u t hi
      exact eq_false_of_ne_true fun kept => ne_true_of_eq_false ht (sticky k kept)
  obtain ⟨ms, rfl | ⟨a, next, rfl⟩⟩ := host
  · exact absurd hs (ne_true_of_eq_false hu)
  · obtain ⟨r, d, rfl, clears⟩ := State.access_clears (s := s.withMoves ms) hs hu
    obtain ⟨rest, hm⟩ := next.moves_of_csrw
    refine ⟨_, rest, hm, ?_⟩
    obtain ⟨rfl, hd⟩ | ⟨rfl, hd⟩ := clears
    · exact .inl hd
    · exact .inr ⟨rfl, rfl, rfl, d, rfl, hd⟩

/-- Completion raises `irq` by DONE, and by ERR when it ends with an error (60_exceptions.md R209). -/
theorem exec_raises_irq {i : Instr} {s t : State} (h : exec i s = .next t) :
    (s.intEnable.getLsbD 0 = true → t.irq = true) ∧
    (s.intEnable.getLsbD 1 = true → statusErr t.status = true → t.irq = true) := by
  obtain ⟨u, e, runs, rfl⟩ := exec_runs h
  obtain ⟨-, -, hen⟩ := runs.flags
  simp only [State.irq_iff, State.complete_status, statusErr_statusCompleted, State.complete_intStatus,
    State.complete_intEnable, hen]
  exact ⟨fun done => ⟨0, by decide, intCompleted_done _ _, done⟩,
    fun err he => ⟨1, by decide, intCompleted_err _ he, err⟩⟩

/-- Writing 1 to every defined INT_STATUS bit drops `irq`. -/
theorem irq_after_clearing_all (s : State) : (s.access (csrw .intStatus 0x7#32)).1.irq = false := by
  rw [State.access_csrw, Bool.eq_false_iff, Ne, State.irq_iff]
  rintro ⟨k, hk, hbit, -⟩
  interval_cases k <;> simp [State.hostWriteCsr] at hbit

/-- A step drops `irq` only by a write of CTRL, INT_STATUS or INT_ENABLE. -/
theorem step_drops_irq {s t : State} (h : step s = .next t) (hs : s.irq = true) (ht : t.irq = false) :
    ∃ r ∈ irqWrites, ∃ d rest, s.moves = .host (csrw r d) :: rest ∨ s.moves = .both (csrw r d) :: rest := by
  obtain ⟨u, host, block⟩ := step_parts h
  have hu : u.irq = false := by
    obtain rfl | ⟨i, hi⟩ := block
    · exact ht
    · exact eq_false_of_ne_true fun kept => ne_true_of_eq_false ht (exec_irq_mono hi kept)
  obtain ⟨ms, rfl | ⟨a, next, rfl⟩⟩ := host
  · exact absurd hs (ne_true_of_eq_false hu)
  · obtain ⟨r, hr, d, rfl⟩ := State.access_drops_irq (s := s.withMoves ms) hs hu
    exact ⟨r, hr, d, next.moves_of_csrw⟩

/-- Settles O25: the level, the rise at a completion, and what drops the line. -/
theorem irqLevel : Obligations.IrqLevel := by
  refine ⟨State.irq_iff, fun i s t => exec_raises_irq, irq_after_clearing_all, fun s t h hs ht => ?_⟩
  obtain ⟨r, hr, d, rest, hm⟩ := step_drops_irq h hs ht
  refine ⟨csrw r d, rest, d, hm, rfl, rfl, rfl, ?_⟩
  simp only [irqWrites, List.mem_cons, List.not_mem_nil, or_false] at hr
  obtain rfl | rfl | rfl := hr
  · exact .inl rfl
  · exact .inr (.inl rfl)
  · exact .inr (.inr rfl)

end Sys2Proof.Machine
end

section
/-! PROOFS. 10_state.md R26 to R43: every update of the state keeps the invariant, and so does every step. -/

namespace Sys2Proof.Machine

open Sys2Proof

theorem word32_toNat_le (n : Nat) : (word32 n).toNat ≤ n := by
  rw [word32, BitVec.toNat_ofNat]
  exact Nat.mod_le _ _

namespace State.Inv

variable {s : State}

/-! The block's updates. -/

theorem withBytes (h : s.Inv) {a : Nat} {bs : List Byte} (hin : s.inBuf a bs.length) : (s.withBytes a bs).Inv :=
  { h with
    bufSorted := bufSetBytes_wf a bs h.bufSorted
    bufInside := fun c hc => by
      obtain old | ⟨-, new⟩ := mem_bufSetBytes hc
      · exact h.bufInside c old
      · exact lt_of_lt_of_le new hin }

theorem loadRecord (h : s.Inv) {r : Nat} {len : Word} (hin : s.inBuf r (recordSize len.toNat)) (type stored computed : Word) :
    (s.loadRecord r len type stored computed).Inv :=
  { h with
    typeFlags := .inr ⟨type, rfl⟩
    next := (word32_toNat_le _).trans hin }

/-- Completion with an error kind that is raised (60_exceptions.md R210, R201). -/
theorem complete (h : s.Inv) {e : ErrCode} (he : e ≠ .unknownLength) : (s.complete e).Inv :=
  { h with
    busyBit := statusBusy_statusCompleted _ _
    errBit := by simp
    errCode := ⟨e, he, statusErrCode_statusCompleted _ _⟩
    lastOp := fun _ hw => Seq.noConfusion hw
    statusReserved := (statusCompleted_and_reserved _ _).trans h.statusReserved
    intStatusReserved := intCompleted_and_reserved e h.intStatusReserved }

/-- What a command leaves meets the invariant before its completion. -/
theorem runs (h : s.Inv) {i : Instr} {u : State} {e : ErrCode} (hrun : s.Runs i u e) : u.Inv := by
  cases hrun with
  | raises | nop => exact h
  | raisesAt _ _ _ offset => exact { h with errOff := (word32_toNat_le _).trans offset }
  | crcInit | crcUpdate | crcFinal | chunkNew => exact { h with }
  | typeClassify | typeCheckText => exact { h with typeFlags := .inr ⟨s.type, rfl⟩ }
  | chunkParse range => exact h.loadRecord range _ _ _
  | @chunkParseMismatch len type stored computed range =>
    exact { h.loadRecord range type stored computed with errOff := (word32_toNat_le _).trans (inBuf_start range) }
  | chunkSerialize range _ bytes =>
    exact { h.withBytes (by simpa [bytes] using range) with next := (word32_toNat_le _).trans range }
  | sigCheck range => exact { h with next := (word32_toNat_le _).trans range }
  | sigWrite range => exact { h.withBytes range with next := (word32_toNat_le _).trans range }
  | @streamParse count _ range records =>
    have few : count ≤ (s.params.bufBytes - 8) / 12 := by omega
    exact { h with
      chunkCount := (word32_toNat_le count).trans few
      next := (word32_toNat_le _).trans range }

theorem exec (h : s.Inv) {i : Instr} {t : State} (ht : exec i s = .next t) : t.Inv := by
  obtain ⟨u, e, hrun, rfl⟩ := exec_runs ht
  exact (h.runs hrun).complete hrun.error_ne_unknownLength

/-! The host's updates. -/

/-- Acceptance (R52). -/
theorem accept (h : s.Inv) (w : Word) : (s.accept w).Inv :=
  { h with
    busyBit := statusBusy_statusAccepted _ _
    errBit := by simpa using h.errBit
    errCode := by simpa using h.errCode
    lastOp := fun _ hw => by
      cases hw
      exact statusLastOp_statusAccepted _ _
    statusReserved := (statusAccepted_and_reserved _ _).trans h.statusReserved }

/-- The reset values meet the invariant, for any BUF of the canonical form (70_reset_and_hazards.md R231). -/
theorem of_resetCsrs (params : s.params.wf) (bufSorted : Memory.wf s.buf) (bufInside : ∀ c ∈ s.buf, c.1 < s.params.bufBytes) :
    s.resetCsrs.Inv where
  params := params
  bufSorted := bufSorted
  bufInside := bufInside
  busyBit := (by decide : statusBusy 0 = Seq.idle.isBusy)
  errBit := (by decide : statusErr 0 = (statusErrCode 0 != 0))
  errCode := ⟨.none, by decide, (by decide : statusErrCode 0 = ErrCode.none.code)⟩
  lastOp := fun _ hw => Seq.noConfusion hw
  statusReserved := BitVec.zero_and
  intStatusReserved := BitVec.zero_and
  intEnableReserved := BitVec.zero_and
  typeFlags := .inl rfl
  next := Nat.zero_le _
  chunkCount := Nat.zero_le _
  errOff := Nat.zero_le _

theorem abort (h : s.Inv) : s.abort.Inv := by
  obtain same | ⟨w, d, n, -, range, stored⟩ := s.abort_cases
  · rw [same]
    exact h
  · rw [stored]
    exact { h.withBytes (a := d) (bs := freeBytes s.draws n) (by simpa using storeRange_inBuf range) with }

theorem softReset (h : s.Inv) : s.softReset.Inv :=
  of_resetCsrs h.abort.params h.abort.bufSorted h.abort.bufInside

/-- A write that is dropped sets OVR, which is no reserved bit (R55). -/
theorem unlessBusy (h : s.Inv) {t : State} (ht : t.Inv) : (s.unlessBusy t).Inv := by
  obtain ⟨-, dropped⟩ | ⟨-, takes⟩ := s.unlessBusy_cases t
  · rw [dropped]
    exact { h with intStatusReserved := or_and_eq_zero h.intStatusReserved (by decide) }
  · rw [takes]
    exact ht

theorem hostWriteCsr (h : s.Inv) (r : Csr) (d : Word) : (s.hostWriteCsr r d).Inv := by
  cases r with
  | ctrl =>
    show (if d.getLsbD 0 = true then s.softReset else s).Inv
    split
    · exact h.softReset
    · exact h
  | cmd => exact h.unlessBusy (h.accept d)
  | intStatus =>
    exact { h with
      intStatusReserved := by
        show s.intStatus &&& ~~~d &&& _ = 0
        rw [BitVec.and_assoc, BitVec.and_comm (~~~d), ← BitVec.and_assoc, h.intStatusReserved]
        exact BitVec.zero_and }
  | intEnable =>
    exact { h with
      intEnableReserved := by
        show d &&& intDefined &&& _ = 0
        rw [BitVec.and_assoc]
        exact BitVec.and_zero }
  | src | len | dst | type | crcState => exact h.unlessBusy { h with }
  | _ => exact h

theorem perform (h : s.Inv) (a : Access) : (s.perform a).Inv := by
  have accessed : (s.access a).1.Inv := by
    obtain ⟨n, heq⟩ | ⟨r, d, -, heq⟩ | ⟨-, off, bs, hin, heq⟩ := s.access_effect a
    · rw [heq]
      exact { h with }
    · rw [heq]
      exact h.hostWriteCsr r d
    · rw [heq]
      exact h.withBytes hin
  exact { accessed with }

theorem withMoves (h : s.Inv) (ms : List Move) : (s.withMoves ms).Inv := { h with }

end State.Inv

/-- Settles O7: the host's part of the step keeps the invariant, and so does a completion. -/
theorem stepKeepsInvariant : Obligations.StepKeepsInvariant := by
  intro s t h hstep
  obtain ⟨u, ⟨ms, hu⟩, block⟩ := step_parts hstep
  have hinv : u.Inv := by
    obtain rfl | ⟨a, -, rfl⟩ := hu
    · exact h.withMoves ms
    · exact (h.withMoves ms).perform a
  obtain rfl | ⟨i, hi⟩ := block
  · exact hinv
  · exact hinv.exec hi

end Sys2Proof.Machine
end

section
/-! PROOFS. 20_memory.md: the accesses of the two ports (R60, R63 to R70, R73), and the bytes a command may store to (R61). -/

namespace Sys2Proof.Machine

open Sys2Proof

/-! The CSR port (R63). -/

/-- Every aligned offset below 0x54 is a register's (10_state.md R22). -/
theorem csrAt_isSome : ∀ off < 0x54, off % 4 = 0 → (csrAt off).isSome = true := by decide

theorem register_or_reserved {off : Nat} (h4 : off % 4 = 0) : (∃ r : Csr, off = r.offset) ∨ 0x54 ≤ off := by
  by_cases below : off < 0x54
  · obtain ⟨r, found⟩ := Option.isSome_iff_exists.1 (csrAt_isSome off below h4)
    exact .inl ⟨r, offset_of_csrAt found⟩
  · exact .inr (by omega)

namespace State

variable {s : State}

theorem access_csr_illegal {off width : Nat} (illegal : ¬ csrLegal off width) (dir : Dir) :
    s.access { port := .csr, offset := off, width := width, dir := dir } = s.busError dir := if_neg illegal

theorem hostReadCsr_response (s : State) (r : Csr) : ∃ v, (s.hostReadCsr r).2 = .word v := by
  unfold hostReadCsr
  split
  · exact ⟨_, rfl⟩
  · exact ⟨_, rfl⟩

/-- A legal CSR read gets OK. -/
theorem access_csr_read_ok (s : State) {off : Nat} (h4 : off % 4 = 0) (hhi : off < 0x100) :
    ∃ v, (s.access { port := .csr, offset := off, width := 4, dir := .read }).2 = .word v := by
  obtain ⟨r, rfl⟩ | hlo := register_or_reserved h4
  · obtain ⟨v, hv⟩ := s.hostReadCsr_response r
    exact ⟨v, (congrArg Prod.snd (s.access_csrr r)).trans hv⟩
  · exact ⟨0, congrArg Prod.snd (s.access_reserved h4 hlo hhi .read)⟩

/-- A legal CSR write gets OK. -/
theorem access_csr_write_ok (s : State) {off : Nat} (h4 : off % 4 = 0) (hhi : off < 0x100) (d : Word) :
    (s.access { port := .csr, offset := off, width := 4, dir := .write d }).2 = .written := by
  obtain ⟨r, rfl⟩ | hlo := register_or_reserved h4
  · exact congrArg Prod.snd (s.access_csrw r d)
  · exact congrArg Prod.snd (s.access_reserved h4 hlo hhi (.write d))

end State

/-- Settles O20: illegal accesses, legal ones, then the reserved offsets among the legal ones. -/
theorem csrPortLegalAccesses : Obligations.CsrPortLegalAccesses := by
  refine fun s off width => ⟨fun h => ?_, ?_, ?_⟩
  · have illegal : ¬ csrLegal off width := by omega
    exact ⟨⟨_, State.access_csr_illegal illegal .read⟩, fun d => State.access_csr_illegal illegal (.write d)⟩
  · rintro rfl h4 hhi
    exact ⟨s.access_csr_read_ok h4 hhi, s.access_csr_write_ok h4 hhi⟩
  · rintro rfl h4 hlo hhi
    exact ⟨s.access_reserved h4 hlo hhi .read, fun d => s.access_reserved h4 hlo hhi (.write d)⟩

/-! Host reads (R70). -/

/-- A host read draws a free value at most. -/
theorem State.access_read_state (s : State) (port : Port) (off width : Nat) :
    ∃ n, (s.access { port := port, offset := off, width := width, dir := .read }).1 = { s with draws := n } := by
  cases port with
  | csr =>
    by_cases legal : csrLegal off width
    · obtain ⟨rfl, h4, hhi⟩ := legal
      obtain ⟨r, rfl⟩ | hlo := register_or_reserved h4
      · obtain ⟨n, hn⟩ := s.hostReadCsr_state r
        exact ⟨n, (congrArg Prod.fst (s.access_csrr r)).trans hn⟩
      · exact ⟨s.draws, congrArg Prod.fst (s.access_reserved h4 hlo hhi .read)⟩
    · rw [access_csr_illegal legal]
      exact s.busError_state .read
  | buf =>
    simp only [access, bufAccess]
    split
    · exact ⟨s.draws, rfl⟩
    · exact s.busError_state .read

/-- Settles O23: whatever the count of draws becomes, it is the only field that the read moves. -/
theorem readsHaveNoSideEffect : Obligations.ReadsHaveNoSideEffect := by
  rintro s ⟨port, off, width, dir⟩ rfl
  obtain ⟨n, hn⟩ := s.access_read_state port off width
  rw [hn]

/-! The BUF port while IDLE (R64, R66, R69). -/

namespace State

variable {s : State}

theorem access_br8 (idle : s.seq = .idle) {a : Nat} (ha : a < s.params.bufBytes) :
    s.access (br8 a) = (s, .byte (s.byteAt a)) := bufAccess_legal idle (.inl ⟨rfl, ha⟩) .read

/-- A 1-byte write takes data bits 7:0, whatever the others are. -/
theorem access_buf_write_byte (idle : s.seq = .idle) {a : Nat} (ha : a < s.params.bufBytes) (d : Word) :
    s.access { port := .buf, offset := a, width := 1, dir := .write d } = (s.withBytes a [d.extractLsb' 0 8], .written) :=
  bufAccess_legal idle (.inl ⟨rfl, ha⟩) (.write d)

theorem access_bw8 (idle : s.seq = .idle) {a : Nat} (ha : a < s.params.bufBytes) (b : Byte) :
    s.access (bw8 a b) = (s.withBytes a [b], .written) := by
  have lane : (b.setWidth 32).extractLsb' 0 8 = b :=
    (BitVec.extractLsb'_setWidth_of_le (by decide)).trans BitVec.extractLsb'_eq_self
  rw [bw8, access_buf_write_byte idle ha, lane]

theorem access_br32 (idle : s.seq = .idle) {a : Nat} (h4 : a % 4 = 0) (ha : a + 4 ≤ s.params.bufBytes) :
    s.access (br32 a) = (s, .word (be32 (s.bytesAt a 4))) := bufAccess_legal idle (.inr ⟨rfl, h4, ha⟩) .read

theorem access_bw32 (idle : s.seq = .idle) {a : Nat} (h4 : a % 4 = 0) (ha : a + 4 ≤ s.params.bufBytes) (d : Word) :
    s.access (bw32 a d) = (s.withBytes a (bytes32 d), .written) := bufAccess_legal idle (.inr ⟨rfl, h4, ha⟩) (.write d)

/-- The lanes of a stored word, most significant byte first (R66). -/
theorem byteAt_withBytes_bytes32 (s : State) (a : Nat) (d : Word) :
    (s.withBytes a (bytes32 d)).byteAt a = d.extractLsb' 24 8 ∧
    (s.withBytes a (bytes32 d)).byteAt (a + 1) = d.extractLsb' 16 8 ∧
    (s.withBytes a (bytes32 d)).byteAt (a + 2) = d.extractLsb' 8 8 ∧
    (s.withBytes a (bytes32 d)).byteAt (a + 3) = d.extractLsb' 0 8 :=
  have lane (i : Nat) (hi : i < 4) := s.byteAt_withBytes_inside a (bytes32 d) (i := i) hi
  ⟨lane 0 (by decide), lane 1 (by decide), lane 2 (by decide), lane 3 (by decide)⟩

/-- Two adjacent sequences are stored as one. -/
theorem withBytes_append (s : State) (a : Nat) (bs cs : List Byte) :
    s.withBytes a (bs ++ cs) = (s.withBytes a bs).withBytes (a + bs.length) cs := by
  induction bs generalizing s a with
  | nil => rfl
  | cons b bs ih =>
    rw [List.length_cons, ← Nat.succ_add_eq_add_succ]
    exact ih (s.withBytes a [b]) (a + 1)

/-- A byte written right after a stored sequence extends it. -/
theorem access_bw8_extends (idle : s.seq = .idle) {a n : Nat} {bs : List Byte} (length : bs.length = n)
    (h : a + n < s.params.bufBytes) (b : Byte) :
    ((s.withBytes a bs).access (bw8 (a + n) b)).1 = s.withBytes a (bs ++ [b]) := by
  have idleAfter : (s.withBytes a bs).seq = .idle := idle
  rw [access_bw8 idleAfter h, withBytes_append, length]

end State

/-- Settles O21: the bytes, the aligned words, then every other access. -/
theorem bufPortWhileIdle : Obligations.BufPortWhileIdle := by
  refine fun s idle => ⟨fun a ha => ⟨State.access_br8 idle ha, fun d => ?_⟩,
    fun a h4 ha => ⟨State.access_br32 idle h4 ha, fun d => ?_⟩, fun a width noByte noWord => ?_⟩
  · refine ⟨_, State.access_buf_write_byte idle ha d, rfl, ?_, fun x hx => ?_⟩
    · exact s.byteAt_withBytes_inside a [d.extractLsb' 0 8] (i := 0) (by simp)
    · exact s.byteAt_withBytes_outside [d.extractLsb' 0 8] (by simp only [List.length_singleton]; omega)
  · obtain ⟨lane0, lane1, lane2, lane3⟩ := s.byteAt_withBytes_bytes32 a d
    exact ⟨_, State.access_bw32 idle h4 ha d, rfl, lane0, lane1, lane2, lane3,
      fun x hx => s.byteAt_withBytes_outside (bytes32 d) hx⟩
  · have illegal : ¬ s.bufLegal a width := fun legal => legal.elim noByte noWord
    exact ⟨⟨_, State.bufAccess_illegal illegal .read⟩, fun d => State.bufAccess_illegal illegal (.write d)⟩

/-- Settles O22: byte reads show the lanes of the stored word, and four adjacent byte writes store one sequence. -/
theorem mixedWidthBufAccess : Obligations.MixedWidthBufAccess := by
  intro s a d b0 b1 b2 b3 idle h4 ha
  have idleAfter (bs : List Byte) : (s.withBytes a bs).seq = .idle := idle
  constructor
  · obtain ⟨lane0, lane1, lane2, lane3⟩ := s.byteAt_withBytes_bytes32 a d
    have readBack {x : Nat} (hx : x < s.params.bufBytes) :
        ((s.access (bw32 a d)).1.access (br8 x)).2 = .byte ((s.withBytes a (bytes32 d)).byteAt x) := by
      rw [State.access_bw32 idle h4 ha, State.access_br8 (idleAfter _) hx]
    rw [readBack (by omega), readBack (by omega), readBack (by omega), readBack (by omega), lane0, lane1, lane2, lane3]
    exact ⟨rfl, rfl, rfl, rfl⟩
  · have h0 : (s.access (bw8 a b0)).1 = s.withBytes a [b0] := by rw [State.access_bw8 idle (by omega)]
    have h1 : ((s.withBytes a [b0]).access (bw8 (a + 1) b1)).1 = s.withBytes a [b0, b1] :=
      State.access_bw8_extends (n := 1) idle rfl (by omega) b1
    have h2 : ((s.withBytes a [b0, b1]).access (bw8 (a + 2) b2)).1 = s.withBytes a [b0, b1, b2] :=
      State.access_bw8_extends (n := 2) idle rfl (by omega) b2
    have h3 : ((s.withBytes a [b0, b1, b2]).access (bw8 (a + 3) b3)).1 = s.withBytes a [b0, b1, b2, b3] :=
      State.access_bw8_extends (n := 3) idle rfl (by omega) b3
    have stored : (s.withBytes a [b0, b1, b2, b3]).bytesAt a 4 = [b0, b1, b2, b3] := s.bytesAt_withBytes_same a _
    rw [h0, h1, h2, h3, State.access_br32 (idleAfter _) h4 ha, stored, be32]

/-! A host move (R60, R73). -/

namespace State

variable {s : State}

theorem softReset_hostSide (s : State) : s.softReset.moves = s.moves ∧ s.softReset.replies = s.replies := by
  obtain same | ⟨w, d, n, -, -, stored⟩ := s.abort_cases
  · rw [softReset, same]
    exact ⟨rfl, rfl⟩
  · rw [softReset, stored]
    exact ⟨rfl, rfl⟩

theorem unlessBusy_hostSide {t : State} (moves : t.moves = s.moves) (replies : t.replies = s.replies) :
    (s.unlessBusy t).moves = s.moves ∧ (s.unlessBusy t).replies = s.replies := by
  obtain ⟨-, dropped⟩ | ⟨-, takes⟩ := s.unlessBusy_cases t
  · rw [dropped]
    exact ⟨rfl, rfl⟩
  · rw [takes]
    exact ⟨moves, replies⟩

theorem hostWriteCsr_hostSide (s : State) (r : Csr) (d : Word) :
    (s.hostWriteCsr r d).moves = s.moves ∧ (s.hostWriteCsr r d).replies = s.replies := by
  cases r with
  | ctrl =>
    rw [hostWriteCsr]
    split
    · exact s.softReset_hostSide
    · exact ⟨rfl, rfl⟩
  | cmd | src | len | dst | type | crcState => exact unlessBusy_hostSide rfl rfl
  | _ => exact ⟨rfl, rfl⟩

/-- No access touches the moves to come or the replies: they are the host's (log 1). -/
theorem access_hostSide (s : State) (a : Access) :
    (s.access a).1.moves = s.moves ∧ (s.access a).1.replies = s.replies := by
  obtain ⟨n, h⟩ | ⟨r, d, -, h⟩ | ⟨-, off, bs, -, h⟩ := s.access_effect a
  · rw [h]
    exact ⟨rfl, rfl⟩
  · rw [h]
    exact s.hostWriteCsr_hostSide r d
  · rw [h]
    exact ⟨rfl, rfl⟩

theorem turn_host {a : Access} {rest : List Move} (hm : s.moves = .host a :: rest) :
    s.turn = .moved ((s.withMoves rest).perform a) := by
  rw [turn, hm]

end State

/-- Settles O13: the step is the access, and the replies that it adds to are those of before. -/
theorem hostAccessStep : Obligations.HostAccessStep := by
  intro s a rest hm
  obtain ⟨-, replies⟩ := (s.withMoves rest).access_hostSide a
  refine ⟨((s.withMoves rest).access a).1, ((s.withMoves rest).access a).2, rfl, ?_⟩
  rw [step_of_moved (State.turn_host hm), State.perform, replies, State.withMoves_replies]

/-! The bytes a command stores to (R61, 42_chunk.md R144, 43_stream.md R162). -/

section Stores

variable {s t : State} {i : Instr}

theorem exec_chunkSerialize_range (h : ¬ s.serializeInBuf) : exec .chunkSerialize s = s.raise .range := if_neg h

theorem exec_chunkSerialize_overlap (h : s.serializeInBuf) (shared : s.serializeOverlaps) :
    exec .chunkSerialize s = s.raise .overlap := (if_pos h).trans (if_pos shared)

theorem buf_of_raise {e : ErrCode} (h : s.raise e = .next t) : t.buf = s.buf := by
  cases h
  rfl

/-- A CHUNK_SERIALIZE leaves BUF alone or has passed its checks, and then its store range is the record's. -/
theorem exec_chunkSerialize_checked (h : exec .chunkSerialize s = .next t) :
    t.buf = s.buf ∨ s.storeRange .chunkSerialize = some (s.dst.toNat, recordSize s.len.toNat) := by
  by_cases ranges : s.serializeInBuf
  · by_cases shared : s.serializeOverlaps
    · exact .inl (buf_of_raise ((exec_chunkSerialize_overlap ranges shared).symm.trans h))
    · exact .inr (if_pos ⟨ranges, shared⟩)
  · exact .inl (buf_of_raise ((exec_chunkSerialize_range ranges).symm.trans h))

/-- What a command does to BUF: nothing, or one sequence stored over its whole store range. -/
theorem exec_stores (h : exec i s = .next t) :
    t.buf = s.buf ∨ ∃ d bs, s.storeRange i = some (d, bs.length) ∧ t.buf = bufSetBytes s.buf d bs := by
  obtain ⟨u, e, runs, rfl⟩ := exec_runs h
  cases runs with
  | chunkSerialize _ _ bytes =>
    refine (exec_chunkSerialize_checked h).imp_right fun range => ⟨_, _, ?_, rfl⟩
    rw [range, bytes, recordBytes_length, State.bytesAt_length]
  | sigWrite range => exact .inr ⟨s.dst.toNat, sig, if_pos range, rfl⟩
  | _ => exact .inl rfl

/-- Two states with the same byte stored at an offset read the same there. -/
theorem State.byteAt_congr {a : Nat} (h : bufGet t.buf a = bufGet s.buf a) : t.byteAt a = s.byteAt a :=
  congrArg (Option.getD · (Config.powerOnByte a)) h

end Stores

/-- Settles O48: the bytes stored fill the store range, and no other byte of BUF moves. -/
theorem memoryFrame : Obligations.MemoryFrame := by
  intro i s t a h outside
  obtain same | ⟨d, bs, range, stored⟩ := exec_stores h
  · exact State.byteAt_congr (by rw [same])
  · exact State.byteAt_congr (by rw [stored, bufGet_bufSetBytes_outside s.buf bs (outside d bs.length range)])

end Sys2Proof.Machine
end

section
/-! PROOFS. 30_encoding.md: decoding is the inverse of encoding, over the defined words (R83) and the illegal ones (R84). -/

namespace Sys2Proof

/-! The fields of a command word as numbers (R81). -/

theorem opcodeField_toNat (w : Word) : (opcodeField w).toNat = w.toNat % 2 ^ 8 := by
  simp [opcodeField]

theorem reservedField_eq_zero_iff (w : Word) : reservedField w = 0 ↔ w.toNat < 2 ^ 8 := by
  have fits : w.toNat < 2 ^ 32 := w.isLt
  rw [← BitVec.toNat_inj, reservedField, BitVec.extractLsb'_toNat, Nat.shiftRight_eq_div_pow, BitVec.ofNat_eq_ofNat,
    BitVec.toNat_zero]
  omega

/-! The defined words, by value and by command (R83). -/

theorem mem_definedWords_iff (w : Word) :
    w ∈ definedWords ↔ w.toNat ≤ 0x04 ∨ (0x10 ≤ w.toNat ∧ w.toNat ≤ 0x11) ∨
      (0x20 ≤ w.toNat ∧ w.toNat ≤ 0x21) ∨ (0x30 ≤ w.toNat ∧ w.toNat ≤ 0x32) := by
  simp only [definedWords, List.mem_cons, List.not_mem_nil, or_false, ← BitVec.toNat_inj, BitVec.toNat_ofNat]
  omega

/-- The commands of R83's map, in the order of `definedWords`. -/
def definedCommands : List Instr :=
  [.nop, .crcInit, .crcUpdate, .crcFinal, .chunkNew, .typeClassify, .typeCheckText, .chunkParse, .chunkSerialize,
    .sigCheck, .sigWrite, .streamParse]

theorem definedWords_eq_map : definedWords = definedCommands.map encodeCommand := rfl

theorem wellFormed_of_mem_definedCommands : ∀ i ∈ definedCommands, i.wellFormed = true := by decide

theorem wellFormed_badCommand_iff (w : Word) : (Instr.badCommand w).wellFormed = true ↔ w ∉ definedWords := by
  simp [Instr.wellFormed]

/-! Decoding a word outside the map (R82's last case, R84). -/

theorem decodeOpcode_of_notMem (w : Word) {op : Byte} (h : op.setWidth 32 ∉ definedWords) :
    decodeOpcode w op = .badCommand w := by
  rw [mem_definedWords_iff, BitVec.toNat_setWidth_of_le (by decide)] at h
  unfold decodeOpcode
  split
  case h_13 => rfl
  all_goals omega

/-- With no reserved bit set the word is its opcode, so the opcode is outside the map when the word is. -/
theorem decodeCommand_of_notMem {w : Word} (h : w ∉ definedWords) : decodeCommand w = .badCommand w := by
  refine ite_eq_right_iff.2 fun rsv => decodeOpcode_of_notMem w fun mem => h ?_
  rw [reservedField_eq_zero_iff] at rsv
  rwa [mem_definedWords_iff, BitVec.toNat_setWidth_of_le (by decide), opcodeField_toNat, Nat.mod_eq_of_lt rsv,
    ← mem_definedWords_iff] at mem

/-- Settles O1: each defined word decodes to its command, and a well-formed `badCommand` carries no defined word. -/
theorem decodeOfEncode : Obligations.DecodeOfEncode := by
  intro i wf
  cases i with
  | badCommand w => exact decodeCommand_of_notMem ((wellFormed_badCommand_iff w).1 wf)
  | _ => rfl

/-- Settles O2: a defined word is the word of a command, and every other word is carried whole by `badCommand`. -/
theorem encodeOfDecode : Obligations.EncodeOfDecode := by
  intro w
  by_cases mem : w ∈ definedWords
  · rw [definedWords_eq_map] at mem
    obtain ⟨i, defined, rfl⟩ := List.mem_map.1 mem
    have wf := wellFormed_of_mem_definedCommands i defined
    rw [decodeOfEncode i wf]
    exact ⟨wf, rfl⟩
  · rw [decodeCommand_of_notMem mem]
    exact ⟨(wellFormed_badCommand_iff w).2 mem, rfl⟩

theorem decodeCommand_eq_badCommand_iff (w : Word) : decodeCommand w = .badCommand w ↔ w ∉ definedWords := by
  refine ⟨fun bad => ?_, decodeCommand_of_notMem⟩
  obtain ⟨wf, -⟩ := encodeOfDecode w
  rwa [bad, wellFormed_badCommand_iff] at wf

/-- Settles O3: the illegal words lie in the gaps between the values of the defined words. -/
theorem illegalWordsDecodeToBadCommand : Obligations.IllegalWordsDecodeToBadCommand := by
  intro w
  rw [decodeCommand_eq_badCommand_iff, mem_definedWords_iff]
  omega

/-- Settles O4: each of the sixteen words is the word of a well-formed command. -/
theorem tableWordsDecode : Obligations.TableWordsDecode :=
  ⟨decodeOfEncode .nop rfl, decodeOfEncode .crcInit rfl, decodeOfEncode .crcUpdate rfl, decodeOfEncode .crcFinal rfl,
    decodeOfEncode .chunkNew rfl, decodeOfEncode .typeClassify rfl, decodeOfEncode .typeCheckText rfl,
    decodeOfEncode .chunkParse rfl, decodeOfEncode .chunkSerialize rfl, decodeOfEncode .sigCheck rfl,
    decodeOfEncode .sigWrite rfl, decodeOfEncode .streamParse rfl, decodeOfEncode (.badCommand 0x05#32) rfl,
    decodeOfEncode (.badCommand 0x12#32) rfl, decodeOfEncode (.badCommand 0xFF#32) rfl,
    decodeOfEncode (.badCommand 0x100#32) rfl⟩

end Sys2Proof
end

section
/-! PROOFS. 40_chunk_type.md: the bits of a classification (R100), and the two classifier commands (R101, R102). -/

namespace Sys2Proof.Machine

open Sys2Proof

/-! The type bytes (10_state.md R33). -/

theorem bytes32_eq_typeBytes (t : Word) : bytes32 t = [typeByte t 0, typeByte t 1, typeByte t 2, typeByte t 3] := rfl

theorem typeByte_append (b0 b1 b2 b3 : Byte) :
    typeByte (b0 ++ b1 ++ b2 ++ b3) 0 = b0 ∧ typeByte (b0 ++ b1 ++ b2 ++ b3) 1 = b1 ∧
    typeByte (b0 ++ b1 ++ b2 ++ b3) 2 = b2 ∧ typeByte (b0 ++ b1 ++ b2 ++ b3) 3 = b3 := by
  have bytes := bytes32_be32 b0 b1 b2 b3
  rw [bytes32_eq_typeBytes, be32] at bytes
  simpa using bytes

theorem isAlphaType_eq_all (t : Word) : isAlphaType t = (bytes32 t).all isAlpha := by
  simp [isAlphaType, bytes32_eq_typeBytes, Bool.and_assoc]

/-! The bits of TYPE_FLAGS (10_state.md R39). -/

/-- A flag is the one bit at its place. -/
theorem flagAt_getLsbD {k : Nat} (hk : k < 32) (b : Bool) (i : Nat) : (flagAt k b).getLsbD i = (i == k && b) := by
  cases b with
  | false => simp [flagAt]
  | true =>
    rw [flagAt, if_pos rfl, Bool.and_true, ← BitVec.twoPow_eq, BitVec.getLsbD_twoPow, decide_eq_true hk, Bool.true_and]
    exact decide_eq_decide.2 eq_comm

/-- Settles O37: each flag shows at its own bit, and the type bytes of the word are the four bytes it is made of. -/
theorem classifyBits : Obligations.ClassifyBits := by
  intro p b0 b1 b2 b3 k
  obtain ⟨byte0, byte1, byte2, byte3⟩ := typeByte_append b0 b1 b2 b3
  simp (disch := decide) only [classify, BitVec.getLsbD_or, flagAt_getLsbD]
  simp only [isCritical, isPublic, isReservedValid, isSafeToCopy, isAlphaType, isValidType, byte0, byte1, byte2, byte3]

/-! The commands (R101, R102). -/

/-- Settles O35: the command classifies without a check. -/
theorem typeClassifyResult : Obligations.TypeClassifyResult := ⟨decodeOfEncode .typeClassify rfl, fun _ => rfl⟩

theorem exec_typeCheckText_alpha {s : State} (letters : isAlphaType s.type = true) :
    exec .typeCheckText s = .next ({ s with typeFlags := classify s.params s.type }.complete .none) := if_pos letters

theorem exec_typeCheckText_nonAlphabetic {s : State} (other : isAlphaType s.type = false) :
    exec .typeCheckText s = .next (s.complete .nonAlphabetic) := if_neg (ne_true_of_eq_false other)

/-- Settles O36: ALPHA speaks of the four bytes of TYPE, so it decides between the two outcomes. -/
theorem typeCheckTextResult : Obligations.TypeCheckTextResult := by
  refine ⟨decodeOfEncode .typeCheckText rfl, fun s => ⟨fun letters => ?_, fun other => ?_⟩⟩
  · exact exec_typeCheckText_alpha (by rwa [isAlphaType_eq_all, List.all_eq_true])
  · exact exec_typeCheckText_nonAlphabetic (by simpa [isAlphaType_eq_all] using other)

end Sys2Proof.Machine
end

section
/-! PROOFS. 41_crc.md: the CRC function as a fold (R120, R121, R126), its injectivity and linearity (R128), and the CRC engine
(R122 to R125). -/

namespace Sys2Proof.Machine

open Sys2Proof

/-! Folding (R121, R126). -/

theorem crcFold_eq_foldl (c : Word) (bs : List Byte) : crcFold c bs = bs.foldl crcByte c := by
  induction bs generalizing c with
  | nil => rfl
  | cons b bs ih => exact ih (crcByte c b)

theorem crcFold_append (c : Word) (s t : List Byte) : crcFold c (s ++ t) = crcFold (crcFold c s) t := by
  simp only [crcFold_eq_foldl, List.foldl_append]

theorem crcFold_flatten (c : Word) (parts : List (List Byte)) : crcFold c parts.flatten = parts.foldl crcFold c := by
  have eq : crcFold = List.foldl crcByte := funext fun c => funext fun bs => crcFold_eq_foldl c bs
  rw [eq, List.foldl_flatten]

/-- Settles O52: folding the parts in order is folding their concatenation, before the inversion and so after it. -/
theorem crcFoldOfSplit : Obligations.CrcFoldOfSplit :=
  ⟨crcFold_append, fun parts => congrArg (· ^^^ 0xFFFFFFFF#32) (crcFold_flatten 0xFFFFFFFF#32 parts).symm⟩

/-- Settles O54: the definition, and the fold of nine bytes. -/
theorem crc32CheckValue : Obligations.Crc32CheckValue := ⟨fun _ => rfl, by decide +kernel⟩

theorem crcByte_eq_iterate (c : Word) (b : Byte) : crcByte c b = crcBit^[8] (c ^^^ b.setWidth 32) := rfl

/-- What bit 0, shifted out, adds to the word (R121). -/
def crcFeedback (b : Bool) : Word := if b then 0xEDB88320#32 else 0

theorem crcBit_eq (c : Word) : crcBit c = c >>> 1 ^^^ crcFeedback (c.getLsbD 0) := by
  unfold crcBit
  cases c.getLsbD 0
  · exact BitVec.xor_zero.symm
  · rfl

/-! Injectivity (R128, first fact). -/

theorem crcFeedback_getLsbD_31 (b : Bool) : (crcFeedback b).getLsbD 31 = b := by cases b <;> rfl

/-- The shift clears bit 31, so it shows the bit shifted out. -/
theorem crcBit_getLsbD_31 (c : Word) : (crcBit c).getLsbD 31 = c.getLsbD 0 := by
  rw [crcBit_eq, BitVec.getLsbD_xor, crcFeedback_getLsbD_31, BitVec.getLsbD_ushiftRight, BitVec.getLsbD_of_ge _ _ le_rfl,
    Bool.false_xor]

/-- A word is its bit 0 and the rest. -/
theorem eq_of_getLsbD_zero_of_shift {c d : Word} (low : c.getLsbD 0 = d.getLsbD 0) (rest : c >>> 1 = d >>> 1) :
    c = d := by
  apply BitVec.eq_of_getLsbD_eq
  intro i _
  cases i with
  | zero => exact low
  | succ i => simpa [BitVec.getLsbD_ushiftRight, Nat.add_comm] using congrArg (BitVec.getLsbD · i) rest

theorem crcBit_injective : Function.Injective crcBit := by
  intro c d h
  have low : c.getLsbD 0 = d.getLsbD 0 := by rw [← crcBit_getLsbD_31, h, crcBit_getLsbD_31]
  rw [crcBit_eq, crcBit_eq, low] at h
  exact eq_of_getLsbD_zero_of_shift low ((BitVec.xor_left_inj _).1 h)

theorem crcByte_injective_state (b : Byte) : Function.Injective (crcByte · b) := fun _ _ h =>
  (BitVec.xor_left_inj _).1 (crcBit_injective.iterate 8 h)

theorem crcByte_injective_byte (c : Word) : Function.Injective (crcByte c) := by
  intro b b' h
  have wide : b.setWidth 32 = b'.setWidth 32 := (BitVec.xor_right_inj c).1 (crcBit_injective.iterate 8 h)
  simpa [BitVec.setWidth_setWidth_of_le] using congrArg (BitVec.setWidth 8) wide

theorem crcFold_injective (bs : List Byte) : Function.Injective (crcFold · bs) := by
  induction bs with
  | nil => exact Function.injective_id
  | cons b bs ih => exact ih.comp (crcByte_injective_state b)

theorem crc32_eq_iff (s t : List Byte) : crc32 s = crc32 t ↔ crcFold 0xFFFFFFFF#32 s = crcFold 0xFFFFFFFF#32 t :=
  BitVec.xor_left_inj _

/-- Settles O55: the running CRC differs after the changed byte, and equal bytes keep it different. -/
theorem crcDetectsOneByteChange : Obligations.CrcDetectsOneByteChange := by
  intro pre post b b' differ same
  rw [crc32_eq_iff, crcFold_append, crcFold_append] at same
  exact differ (crcByte_injective_byte _ (crcFold_injective post same))

/-! Linearity (R128, second fact). -/

theorem xor_interchange {w : Nat} (x y z u : BitVec w) : (x ^^^ y) ^^^ (z ^^^ u) = (x ^^^ z) ^^^ (y ^^^ u) := by
  ac_rfl

theorem crcFeedback_xor (b b' : Bool) : crcFeedback (b ^^ b') = crcFeedback b ^^^ crcFeedback b' := by
  cases b <;> cases b' <;> rfl

theorem crcBit_xor (c d : Word) : crcBit (c ^^^ d) = crcBit c ^^^ crcBit d := by
  simp only [crcBit_eq, BitVec.ushiftRight_xor_distrib, BitVec.getLsbD_xor, crcFeedback_xor]
  exact xor_interchange _ _ _ _

theorem crcByte_xor (c d : Word) (b b' : Byte) : crcByte (c ^^^ d) (b ^^^ b') = crcByte c b ^^^ crcByte d b' := by
  rw [crcByte_eq_iterate, BitVec.setWidth_xor, xor_interchange]
  exact Function.Semiconj₂.iterate crcBit_xor 8 _ _

theorem crcFold_xor (c d : Word) {s t : List Byte} (len : s.length = t.length) :
    crcFold (c ^^^ d) (List.zipWith (· ^^^ ·) s t) = crcFold c s ^^^ crcFold d t := by
  induction s generalizing c d t with
  | nil => rw [List.length_eq_zero_iff.1 len.symm]; rfl
  | cons b s ih =>
    obtain ⟨b', t, rfl⟩ := List.exists_cons_of_length_eq_add_one len.symm
    rw [List.zipWith_cons_cons, crcFold, crcByte_xor, ih _ _ (Nat.succ_injective len)]
    rfl

/-- Settles O56: the two inversions cancel, and so do the two initial values. -/
theorem crcIsLinear : Obligations.CrcIsLinear := by
  intro s t len
  calc crc32 s ^^^ crc32 t
    _ = (crcFold 0xFFFFFFFF#32 s ^^^ crcFold 0xFFFFFFFF#32 t) ^^^ (0xFFFFFFFF#32 ^^^ 0xFFFFFFFF#32) :=
      xor_interchange _ _ _ _
    _ = crcFold 0xFFFFFFFF#32 s ^^^ crcFold 0xFFFFFFFF#32 t := BitVec.xor_zero
    _ = crcFold 0 (List.zipWith (· ^^^ ·) s t) := (crcFold_xor _ _ len).symm

/-! The commands (R122 to R125). -/

/-- Settles O31: the command checks nothing. -/
theorem crcInitResult : Obligations.CrcInitResult := ⟨decodeOfEncode .crcInit rfl, fun _ => rfl⟩

/-- Settles O33: the command checks nothing, and CRC_RESULT is the only register it moves before completion. -/
theorem crcFinalResult : Obligations.CrcFinalResult := ⟨decodeOfEncode .crcFinal rfl, fun _ => rfl⟩

section Source

variable {s : State}

theorem exec_crcUpdate_inBuf (range : s.inBuf s.src.toNat s.len.toNat) :
    exec .crcUpdate s =
      .next ({ s with crcState := crcFold s.crcState (s.bytesAt s.src.toNat s.len.toNat) }.complete .none) :=
  (if_pos range).trans (State.reading_eq range _)

theorem exec_crcUpdate_range (past : ¬ s.inBuf s.src.toNat s.len.toNat) :
    exec .crcUpdate s = .next (s.complete .range) := if_neg past

theorem exec_chunkNew_inBuf (range : s.inBuf s.src.toNat s.len.toNat) :
    exec .chunkNew s = .next ({ s with
      chunkLen := s.len, crcResult := crcChunk s.type (s.bytesAt s.src.toNat s.len.toNat) }.complete .none) :=
  (if_pos range).trans (State.reading_eq range _)

theorem exec_chunkNew_range (past : ¬ s.inBuf s.src.toNat s.len.toNat) :
    exec .chunkNew s = .next (s.complete .range) := if_neg past

end Source

/-- Settles O32: the range check decides between the two outcomes. -/
theorem crcUpdateResult : Obligations.CrcUpdateResult :=
  ⟨decodeOfEncode .crcUpdate rfl, fun _ =>
    ⟨exec_crcUpdate_inBuf, fun past => exec_crcUpdate_range (Nat.not_le.2 past)⟩⟩

/-- Settles O34: the range check decides between the two outcomes. -/
theorem chunkNewResult : Obligations.ChunkNewResult :=
  ⟨decodeOfEncode .chunkNew rfl, fun _ =>
    ⟨exec_chunkNew_inBuf, fun past => exec_chunkNew_range (Nat.not_le.2 past)⟩⟩

/-! A running CRC (R126). -/

theorem State.bytesAt_of_buf_eq {s t : State} (buf : t.buf = s.buf) (a n : Nat) : t.bytesAt a n = s.bytesAt a n :=
  State.bytesAt_congr fun _ _ _ => State.byteAt_congr (by rw [buf])

/-- An offset or a count of a range in BUF fits its register (00_scope.md R7). -/
theorem toNat_ofNat_of_le_bufBytes {p : Params} {x : Nat} (small : p.bufBytes ≤ 2 ^ 31) (h : x ≤ p.bufBytes) :
    (BitVec.ofNat 32 x).toNat = x := by
  rw [BitVec.toNat_ofNat, Nat.mod_eq_of_lt (by omega)]

/-- `t` runs on the parameters and BUF of `s`, with `c` in CRC_STATE: what a running CRC is between its commands. -/
structure State.RunsCrc (s t : State) (c : Word) : Prop where
  params : t.params = s.params
  buf : t.buf = s.buf
  crcState : t.crcState = c

theorem State.runsCrc_crcInit (s : State) : ∃ t, exec .crcInit s = .next t ∧ s.RunsCrc t 0xFFFFFFFF#32 :=
  ⟨_, rfl, ⟨rfl, rfl, rfl⟩⟩

theorem State.RunsCrc.crcUpdate {s t : State} {c : Word} {a n : Nat} (h : s.RunsCrc t c)
    (small : s.params.bufBytes ≤ 2 ^ 31) (range : s.inBuf a n) :
    ∃ u, exec .crcUpdate { t with src := BitVec.ofNat 32 a, len := BitVec.ofNat 32 n } = .next u ∧
      s.RunsCrc u (crcFold c (s.bytesAt a n)) := by
  obtain ⟨params, buf, rfl⟩ := h
  have src : (BitVec.ofNat 32 a).toNat = a := toNat_ofNat_of_le_bufBytes small (by omega)
  have len : (BitVec.ofNat 32 n).toNat = n := toNat_ofNat_of_le_bufBytes small (by omega)
  refine ⟨_, exec_crcUpdate_inBuf (by simpa only [State.inBuf, src, len, params] using range), params, buf, ?_⟩
  simp only [State.complete_crcState, src, len]
  exact congrArg _ (State.bytesAt_of_buf_eq (by exact buf) a n)

/-- Settles O53: the two updates fold the two ranges in order, which is folding the range they make up. -/
theorem runningCrcOfAdjacentRanges : Obligations.RunningCrcOfAdjacentRanges := by
  intro s a m n small range
  obtain ⟨s0, run0, h0⟩ := s.runsCrc_crcInit
  obtain ⟨s1, run1, h1⟩ := h0.crcUpdate (a := a) (n := m) small (by omega)
  obtain ⟨s2, run2, h2⟩ := h1.crcUpdate small range
  refine ⟨s0, s1, s2, _, run0, run1, run2, rfl, ?_⟩
  calc s2.crcState ^^^ 0xFFFFFFFF#32
    _ = crcFold (crcFold 0xFFFFFFFF#32 (s.bytesAt a m)) (s.bytesAt (a + m) n) ^^^ 0xFFFFFFFF#32 := by rw [h2.crcState]
    _ = crc32 (s.bytesAt a (m + n)) := by rw [State.bytesAt_add, crc32, crcFold_append]

end Sys2Proof.Machine
end

section
/-! PROOFS. 42_chunk.md: framing a record (R140), CHUNK_PARSE and CHUNK_SERIALIZE (R141, R145, R146), and the laws that tie them
together (R142, R143). -/

namespace Sys2Proof.Machine

open Sys2Proof

/-! A value in a register (00_scope.md R9). -/

@[simp] theorem word32_toNat (v : Word) : word32 v.toNat = v := BitVec.ofNat_toNat 32 v

/-- The value of NEXT after a record, as the rules sum it. -/
theorem word32_add_recordSize (r n : Nat) : word32 (r + recordSize n) = BitVec.ofNat 32 (r + 12 + n) :=
  congrArg word32 (Nat.add_assoc r 12 n).symm

/-! Framing (R140). -/

namespace State

theorem frame_truncated {s : State} {r avail : Nat}
    (short : avail < 4 ∨ avail < recordSize (be32 (s.bytesAt r 4)).toNat) : s.frame r avail = .truncated := by
  rw [frame]
  split
  case isTrue => rfl
  case isFalse noLength => exact if_pos (short.resolve_left noLength)

/-- A record frames exactly when it lies in the available bytes, and then it holds its own fields. -/
theorem frame_eq_record_iff {s : State} {r avail : Nat} {len type stored computed : Word} :
    s.frame r avail = .record len type stored computed ↔
      recordSize len.toNat ≤ avail ∧ len = be32 (s.bytesAt r 4) ∧ type = be32 (s.bytesAt (r + 4) 4) ∧
      stored = be32 (s.bytesAt (r + 8 + len.toNat) 4) ∧ computed = crcChunk type (s.bytesAt (r + 8) len.toNat) := by
  constructor
  · intro framed
    obtain truncated | ⟨len', type', stored', computed', framed', fields⟩ := s.frame_cases r avail
    · simp [truncated] at framed
    · rw [framed'] at framed
      cases framed
      exact fields
  · rintro ⟨fits, rfl, rfl, rfl, rfl⟩
    have length : ¬ avail < 4 := by simp only [recordSize] at fits; omega
    rw [frame, if_neg length, if_neg (Nat.not_lt.2 fits)]

/-- Framing reads available bytes only. -/
theorem frame_congr {s t : State} {r avail : Nat} (agree : ∀ x, r ≤ x → x < r + avail → s.byteAt x = t.byteAt x) :
    s.frame r avail = t.frame r avail := by
  have read {a n : Nat} (lo : r ≤ a) (hi : a + n ≤ r + avail) : s.bytesAt a n = t.bytesAt a n :=
    bytesAt_congr fun x hlo hhi => agree x (by omega) (by omega)
  by_cases length : avail < 4
  · rw [frame_truncated (.inl length), frame_truncated (.inl length)]
  · have sameLength : s.bytesAt r 4 = t.bytesAt r 4 := read le_rfl (by omega)
    by_cases short : avail < recordSize (be32 (s.bytesAt r 4)).toNat
    · rw [frame_truncated (.inr short), frame_truncated (.inr (sameLength ▸ short))]
    · have fits := Nat.not_lt.1 short
      rw [frame_eq_record_iff.2 ⟨fits, rfl, rfl, rfl, rfl⟩, eq_comm, frame_eq_record_iff]
      simp only [recordSize] at fits
      rw [← sameLength, ← read (a := r + 4) (by omega) (by omega),
        ← read (a := r + 8 + (be32 (s.bytesAt r 4)).toNat) (by omega) (by omega),
        ← read (a := r + 8) (n := (be32 (s.bytesAt r 4)).toNat) (by omega) (by omega)]
      exact ⟨fits, rfl, rfl, rfl, rfl⟩

theorem frame_of_buf_eq {s t : State} (buf : t.buf = s.buf) (r avail : Nat) : t.frame r avail = s.frame r avail :=
  frame_congr fun _ _ _ => byteAt_congr (by rw [buf])

end State

/-- Settles O38: the two ways to be Truncated, the record otherwise, and the bytes that framing reads. -/
theorem frameReadsRecord : Obligations.FrameReadsRecord :=
  ⟨fun _ _ _ => ⟨State.frame_truncated, fun _ fits => State.frame_eq_record_iff.2 ⟨fits, rfl, rfl, rfl, rfl⟩⟩,
    fun _ _ _ _ => State.frame_congr⟩

/-! CHUNK_PARSE (R141). -/

section Parse

variable {s : State} {len type stored computed crc : Word}

theorem exec_chunkParse_range (past : ¬ s.inBuf s.src.toNat s.len.toNat) :
    exec .chunkParse s = .next (s.complete .range) := if_neg past

theorem exec_chunkParse_truncated (range : s.inBuf s.src.toNat s.len.toNat)
    (framed : s.frame s.src.toNat s.len.toNat = .truncated) :
    exec .chunkParse s = .next ({ s with errOff := s.src }.complete .truncated) := by
  rw [exec, execChunkParse, if_pos range, State.framing_eq range, framed]
  simp only [State.raiseAt, word32_toNat]

theorem exec_chunkParse_accepts (range : s.inBuf s.src.toNat s.len.toNat)
    (framed : s.frame s.src.toNat s.len.toNat = .record len type crc crc) :
    exec .chunkParse s = .next ((s.loadRecord s.src.toNat len type crc crc).complete .none) := by
  rw [exec, execChunkParse, if_pos range, State.framing_eq range, framed]
  exact if_pos rfl

theorem exec_chunkParse_mismatch (range : s.inBuf s.src.toNat s.len.toNat)
    (framed : s.frame s.src.toNat s.len.toNat = .record len type stored computed) (differ : computed ≠ stored) :
    exec .chunkParse s =
      .next ({ s.loadRecord s.src.toNat len type stored computed with errOff := s.src }.complete .crcMismatch) := by
  rw [exec, execChunkParse, if_pos range, State.framing_eq range, framed]
  simp only [if_neg differ, State.raiseAt, word32_toNat]

end Parse

/-- Settles O39: the range check, then the frame, then the comparison of the two CRCs. -/
theorem chunkParseResult : Obligations.ChunkParseResult := by
  refine ⟨decodeOfEncode .chunkParse rfl, ?_⟩
  rintro s _ _ _ _ _ _ rfl rfl rfl rfl rfl rfl
  refine ⟨fun past => exec_chunkParse_range (Nat.not_le.2 past),
    fun range short => exec_chunkParse_truncated range (State.frame_truncated short),
    fun range fits same => ?_, fun range fits differ => ?_⟩
  · have framed := State.frame_eq_record_iff.2 ⟨fits, rfl, rfl, same, rfl⟩
    rw [exec_chunkParse_accepts range framed, ← same, State.loadRecord, word32_add_recordSize]
  · have framed := State.frame_eq_record_iff.2 ⟨fits, rfl, rfl, rfl, rfl⟩
    rw [exec_chunkParse_mismatch range framed differ, State.loadRecord, word32_add_recordSize]
    rfl

/-! CHUNK_SERIALIZE (R145, R146). -/

/-- Two ranges overlap when some offset lies in both (R146). -/
theorem overlaps_iff_shared {a na b nb : Nat} :
    overlaps a na b nb ↔ ∃ x, (a ≤ x ∧ x < a + na) ∧ (b ≤ x ∧ x < b + nb) := by
  constructor
  · intro shared
    exact ⟨max a b, by omega⟩
  · rintro ⟨x, inA, inB⟩
    omega

namespace State

/-- A part of a stored sequence reads back at its own offset. -/
theorem bytesAt_withBytes_part (s : State) {a x n : Nat} {bs before part after : List Byte}
    (whole : bs = before ++ part ++ after) (offset : x = a + before.length) (count : n = part.length) :
    (s.withBytes a bs).bytesAt x n = part := by
  subst whole offset count
  rw [withBytes_append, bytesAt_withBytes_outside _ _ (.inl (by simp [Nat.add_assoc])), withBytes_append,
    bytesAt_withBytes_same]

/-- The four fields of a stored record (30_encoding.md R87). -/
theorem bytesAt_withBytes_recordBytes (s : State) (d : Nat) (type : Word) (data : List Byte) :
    (s.withBytes d (recordBytes type data)).bytesAt d 4 = bytes32 (word32 data.length) ∧
    (s.withBytes d (recordBytes type data)).bytesAt (d + 4) 4 = bytes32 type ∧
    (s.withBytes d (recordBytes type data)).bytesAt (d + 8) data.length = data ∧
    (s.withBytes d (recordBytes type data)).bytesAt (d + 8 + data.length) 4 = bytes32 (crcChunk type data) := by
  refine ⟨?_, ?_, ?_, ?_⟩
  · exact s.bytesAt_withBytes_part (before := []) (after := bytes32 type ++ data ++ bytes32 (crcChunk type data))
      (by simp [recordBytes]) rfl rfl
  · exact s.bytesAt_withBytes_part (before := bytes32 (word32 data.length)) (after := data ++ bytes32 (crcChunk type data))
      (by simp [recordBytes]) rfl rfl
  · exact s.bytesAt_withBytes_part (before := bytes32 (word32 data.length) ++ bytes32 type)
      (after := bytes32 (crcChunk type data)) rfl rfl rfl
  · exact s.bytesAt_withBytes_part (before := bytes32 (word32 data.length) ++ bytes32 type ++ data) (after := [])
      (by simp [recordBytes]) (by simp only [List.length_append, bytes32_length]; omega) rfl

/-- What CHUNK_SERIALIZE leaves when its checks pass (R145; `exec_chunkSerialize_stores`). -/
def serialized (s : State) : State :=
  { s.withBytes s.dst.toNat (recordBytes s.type (s.bytesAt s.src.toNat s.len.toNat)) with
    chunkLen := s.len
    crcResult := crcChunk s.type (s.bytesAt s.src.toNat s.len.toNat)
    next := word32 (s.dst.toNat + recordSize s.len.toNat) }.complete .none

theorem serialized_buf (s : State) : s.serialized.buf =
    (s.withBytes s.dst.toNat (recordBytes s.type (s.bytesAt s.src.toNat s.len.toNat))).buf := rfl

/-- The fields of the record at DST. -/
theorem bytesAt_serialized (s : State) :
    s.serialized.bytesAt s.dst.toNat 4 = bytes32 s.len ∧
    s.serialized.bytesAt (s.dst.toNat + 4) 4 = bytes32 s.type ∧
    s.serialized.bytesAt (s.dst.toNat + 8) s.len.toNat = s.bytesAt s.src.toNat s.len.toNat ∧
    s.serialized.bytesAt (s.dst.toNat + 8 + s.len.toNat) 4 =
      bytes32 (crcChunk s.type (s.bytesAt s.src.toNat s.len.toNat)) := by
  have stored := s.bytesAt_withBytes_recordBytes s.dst.toNat s.type (s.bytesAt s.src.toNat s.len.toNat)
  simpa only [bytesAt_length, word32_toNat, ← bytesAt_of_buf_eq s.serialized_buf] using stored

/-- The record at DST frames as the chunk it was made of, whatever follows it. -/
theorem frame_serialized (s : State) {avail : Nat} (fits : recordSize s.len.toNat ≤ avail) :
    s.serialized.frame s.dst.toNat avail =
      .record s.len s.type (crcChunk s.type (s.bytesAt s.src.toNat s.len.toNat))
        (crcChunk s.type (s.bytesAt s.src.toNat s.len.toNat)) := by
  obtain ⟨lengthField, typeField, dataField, crcField⟩ := s.bytesAt_serialized
  rw [frame_eq_record_iff, lengthField, typeField, dataField, crcField]
  simp only [be32_bytes32, fits, and_self]

/-- BUF is kept outside the record. -/
theorem byteAt_serialized_outside (s : State) {x : Nat}
    (outside : x < s.dst.toNat ∨ s.dst.toNat + recordSize s.len.toNat ≤ x) : s.serialized.byteAt x = s.byteAt x :=
  s.byteAt_withBytes_outside _ (by simpa using outside)

end State

theorem exec_chunkSerialize_stores {s : State} (ranges : s.serializeInBuf) (apart : ¬ s.serializeOverlaps) :
    exec .chunkSerialize s = .next s.serialized := by
  obtain ⟨source, dest⟩ := ranges
  rw [exec, execChunkSerialize, if_pos ⟨source, dest⟩, if_neg apart, State.reading_eq source,
    State.storing_eq (by simpa using dest)]
  rfl

/-- Settles O40: RANGE, OVERLAP, or the stored record's fields and nothing else. -/
theorem chunkSerializeResult : Obligations.ChunkSerializeResult := by
  refine ⟨decodeOfEncode .chunkSerialize rfl, ?_⟩
  rintro s _ _ _ _ rfl rfl rfl rfl
  have destSize : s.len.toNat + 12 = recordSize s.len.toNat := Nat.add_comm _ 12
  simp only [Nat.add_assoc s.dst.toNat s.len.toNat 12, destSize, ← overlaps_iff_shared]
  refine ⟨fun past => exec_chunkSerialize_range (by omega),
    fun source dest shared => exec_chunkSerialize_overlap ⟨source, dest⟩ shared, fun source dest apart => ?_⟩
  obtain ⟨lengthField, typeField, dataField, crcField⟩ := s.bytesAt_serialized
  exact ⟨_, exec_chunkSerialize_stores ⟨source, dest⟩ apart, rfl, lengthField, typeField, dataField, crcField,
    fun _ => s.byteAt_serialized_outside⟩

/-! The laws (R142, R143). -/

/-- Settles O57: the stored record frames as the chunk, in any legal LEN'. -/
theorem serializeThenParse : Obligations.SerializeThenParse := by
  intro s len' source apart fits range
  rw [Nat.add_comm _ 12] at fits
  rw [Nat.add_comm _ 12, ← overlaps_iff_shared] at apart
  have dest : s.inBuf s.dst.toNat (recordSize s.len.toNat) := State.inBuf_shorter range fits
  have framed : ({ s.serialized with src := s.dst, len := len' } : State).frame s.dst.toNat len'.toNat = _ :=
    (State.frame_of_buf_eq (by rfl) _ _).trans (s.frame_serialized fits)
  obtain ⟨-, -, dataField, -⟩ := s.bytesAt_serialized
  refine ⟨_, _, exec_chunkSerialize_stores ⟨source, dest⟩ apart, exec_chunkParse_accepts range framed,
    ?_, rfl, rfl, rfl, rfl, rfl, ?_, ?_⟩
  · exact statusErrCode_statusCompleted _ .none
  · rw [Nat.add_right_comm, ← word32_add_recordSize]
    rfl
  · exact (State.bytesAt_of_buf_eq (by rfl) _ _).trans dataField

namespace State

@[simp] theorem bytes32_be32_bytesAt (s : State) (a : Nat) : bytes32 (be32 (s.bytesAt a 4)) = s.bytesAt a 4 :=
  bytes32_be32 _ _ _ _

/-- The CRC of a record covers its type field and its data (R140). -/
theorem crcChunk_bytesAt (s : State) (r n : Nat) :
    crcChunk (be32 (s.bytesAt (r + 4) 4)) (s.bytesAt (r + 8) n) = crc32 (s.bytesAt (r + 4) (4 + n)) := by
  rw [crcChunk, bytes32_be32_bytesAt, bytesAt_add]

/-- One byte written inside a range changes one byte of its sequence. -/
theorem bytesAt_withBytes_byte (s : State) {a n x : Nat} (b : Byte) (lo : a ≤ x) (hi : x < a + n) :
    ∃ before after, s.bytesAt a n = before ++ s.byteAt x :: after ∧
      (s.withBytes x [b]).bytesAt a n = before ++ b :: after := by
  obtain ⟨i, rfl⟩ := Nat.exists_eq_add_of_le lo
  obtain ⟨j, rfl⟩ : ∃ j, n = i + (1 + j) := ⟨n - i - 1, by omega⟩
  refine ⟨s.bytesAt a i, s.bytesAt (a + i + 1) j, ?_, ?_⟩
  · rw [bytesAt_add, bytesAt_add]
    rfl
  · have written : (s.withBytes (a + i) [b]).bytesAt (a + i) 1 = [b] := s.bytesAt_withBytes_same (a + i) [b]
    rw [bytesAt_add, bytesAt_add, bytesAt_withBytes_outside _ _ (.inl le_rfl), written,
      s.bytesAt_withBytes_outside (x := a + i + 1) [b] (.inr le_rfl)]
    rfl

/-- A changed byte of a sequence changes its CRC (41_crc.md R128). -/
theorem crc32_withBytes_byte (s : State) {a n x : Nat} {b : Byte} (lo : a ≤ x) (hi : x < a + n) (changed : b ≠ s.byteAt x) :
    crc32 ((s.withBytes x [b]).bytesAt a n) ≠ crc32 (s.bytesAt a n) := by
  obtain ⟨before, after, old, new⟩ := s.bytesAt_withBytes_byte b lo hi
  rw [old, new]
  exact crcDetectsOneByteChange before after b _ changed

/-- A changed byte of a word field changes its value. -/
theorem be32_withBytes_byte (s : State) {a x : Nat} {b : Byte} (lo : a ≤ x) (hi : x < a + 4) (changed : b ≠ s.byteAt x) :
    be32 ((s.withBytes x [b]).bytesAt a 4) ≠ be32 (s.bytesAt a 4) := by
  intro same
  obtain ⟨before, after, old, new⟩ := s.bytesAt_withBytes_byte b lo hi
  have bytes := congrArg bytes32 same
  rw [bytes32_be32_bytesAt, bytes32_be32_bytesAt, old, new, List.append_cancel_left_eq] at bytes
  exact changed (List.head_eq_of_cons_eq bytes)

/-- In a record with a matching CRC, a changed byte after the length field changes either the recomputed or the stored CRC. -/
theorem frame_withBytes_byte {s : State} {r avail x : Nat} {len type crc : Word} {b : Byte}
    (framed : s.frame r avail = .record len type crc crc) (lo : r + 4 ≤ x) (hi : x < r + 12 + len.toNat)
    (changed : b ≠ s.byteAt x) :
    ∃ type' stored computed, (s.withBytes x [b]).frame r avail = .record len type' stored computed ∧ computed ≠ stored := by
  obtain ⟨fits, rfl, rfl, stored, computed⟩ := frame_eq_record_iff.1 framed
  rw [crcChunk_bytesAt] at computed
  have length : (s.withBytes x [b]).bytesAt r 4 = s.bytesAt r 4 := s.bytesAt_withBytes_outside _ (.inl lo)
  refine ⟨_, _, _, frame_eq_record_iff.2 ⟨fits, by rw [length], rfl, rfl, rfl⟩, ?_⟩
  rw [crcChunk_bytesAt]
  by_cases covered : x < r + 8 + (be32 (s.bytesAt r 4)).toNat
  · rw [s.bytesAt_withBytes_outside (x := r + 8 + _) _ (.inr covered), ← stored, computed]
    exact s.crc32_withBytes_byte lo (by omega) changed
  · rw [s.bytesAt_withBytes_outside (x := r + 4) _ (.inl (by omega)), ← computed, stored]
    exact (s.be32_withBytes_byte (Nat.not_lt.1 covered) (by omega) changed).symm

end State

/-- Settles O58: the record still frames, with two CRCs that differ. -/
theorem checksumSensitivity : Obligations.ChecksumSensitivity := by
  intro s len type crc x b range framed lo hi changed
  obtain ⟨type', stored, computed, framed', differ⟩ := State.frame_withBytes_byte framed lo hi changed
  exact ⟨_, exec_chunkParse_mismatch (s := s.withBytes x [b]) range framed' differ,
    statusErrCode_statusCompleted _ .crcMismatch, rfl⟩

end Sys2Proof.Machine
end

section
/-! PROOFS. 43_stream.md: the signature commands (R160, R162), the walk of STREAM_PARSE (R164), and streams that grow record by
record (R166, R167). -/

namespace Sys2Proof.Machine

open Sys2Proof

/-! The checks SIG_CHECK and STREAM_PARSE share (R160, R164). -/

namespace State

variable {s : State} {k : Result}

/-- What SIG_CHECK and STREAM_PARSE do: the range check, the signature checks, then `k` (`exec_sigCheck_eq`,
`exec_streamParse_eq`). -/
def checkingStream (s : State) (k : Result) : Result :=
  if s.inBuf s.src.toNat s.len.toNat then s.checkingSig k else s.raise .range

theorem raiseAt_src (s : State) (e : ErrCode) : s.raiseAt e s.src.toNat = .next ({ s with errOff := s.src }.complete e) := by
  rw [raiseAt, word32_toNat]

theorem checkingStream_range (past : s.params.bufBytes < s.src.toNat + s.len.toNat) :
    s.checkingStream k = .next (s.complete .range) := if_neg (Nat.not_le.2 past)

theorem checkingStream_truncated (range : s.inBuf s.src.toNat s.len.toNat) (short : s.len.toNat < 8) :
    s.checkingStream k = .next ({ s with errOff := s.src }.complete .truncated) := by
  rw [checkingStream, if_pos range, checkingSig, if_pos short, raiseAt_src]

/-- With eight bytes in the stream, their comparison with SIG decides. -/
theorem checkingStream_compares (range : s.inBuf s.src.toNat s.len.toNat) (long : 8 ≤ s.len.toNat) :
    s.checkingStream k =
      if s.bytesAt s.src.toNat 8 = sig then k else .next ({ s with errOff := s.src }.complete .badSignature) := by
  rw [checkingStream, if_pos range, checkingSig, if_neg (Nat.not_lt.2 long), reading_eq (inBuf_shorter range long), raiseAt_src]

theorem checkingStream_badSignature (range : s.inBuf s.src.toNat s.len.toNat) (long : 8 ≤ s.len.toNat)
    (other : s.bytesAt s.src.toNat 8 ≠ sig) :
    s.checkingStream k = .next ({ s with errOff := s.src }.complete .badSignature) :=
  (checkingStream_compares range long).trans (if_neg other)

theorem checkingStream_passed (range : s.inBuf s.src.toNat s.len.toNat) (long : 8 ≤ s.len.toNat)
    (signature : s.bytesAt s.src.toNat 8 = sig) : s.checkingStream k = k :=
  (checkingStream_compares range long).trans (if_pos signature)

end State

theorem exec_sigCheck_eq (s : State) :
    exec .sigCheck s = s.checkingStream (.next ({ s with next := word32 (s.src.toNat + 8) }.complete .none)) := rfl

/-- Settles O41: the range check, the length check, then the comparison with SIG. -/
theorem sigCheckResult : Obligations.SigCheckResult := by
  refine ⟨decodeOfEncode .sigCheck rfl, fun s => ?_⟩
  rw [exec_sigCheck_eq]
  exact ⟨State.checkingStream_range, State.checkingStream_truncated, State.checkingStream_badSignature,
    State.checkingStream_passed⟩

/-! SIG_WRITE (R162). -/

namespace State

/-- What SIG_WRITE leaves when its range check passes (R162; `exec_sigWrite_stores`). -/
def signed (s : State) : State :=
  { s.withBytes s.dst.toNat sig with next := word32 (s.dst.toNat + 8) }.complete .none

theorem signed_buf (s : State) : s.signed.buf = (s.withBytes s.dst.toNat sig).buf := rfl

theorem bytesAt_signed (s : State) : s.signed.bytesAt s.dst.toNat 8 = sig :=
  (bytesAt_of_buf_eq s.signed_buf _ _).trans (s.bytesAt_withBytes_same s.dst.toNat sig)

theorem byteAt_signed_outside (s : State) {x : Nat} (outside : x < s.dst.toNat ∨ s.dst.toNat + 8 ≤ x) :
    s.signed.byteAt x = s.byteAt x := s.byteAt_withBytes_outside sig outside

end State

theorem exec_sigWrite_range {s : State} (past : s.params.bufBytes < s.dst.toNat + 8) :
    exec .sigWrite s = .next (s.complete .range) := if_neg (Nat.not_le.2 past)

theorem exec_sigWrite_stores {s : State} (range : s.inBuf s.dst.toNat 8) : exec .sigWrite s = .next s.signed := by
  rw [exec, execSigWrite, if_pos range, State.storing_eq range]
  rfl

/-- Settles O42: the range check decides between the two outcomes. -/
theorem sigWriteResult : Obligations.SigWriteResult :=
  ⟨decodeOfEncode .sigWrite rfl, fun s => ⟨exec_sigWrite_range, fun range =>
    ⟨s.signed, exec_sigWrite_stores range, rfl, s.bytesAt_signed, fun _ => s.byteAt_signed_outside⟩⟩⟩

/-! The records of a stream (R164). -/

namespace State

/-- A record frames the same in any number of available bytes that holds it. -/
theorem frame_of_fits {s : State} {r avail avail' : Nat} {len type stored computed : Word}
    (framed : s.frame r avail = .record len type stored computed) (fits : recordSize len.toNat ≤ avail') :
    s.frame r avail' = .record len type stored computed :=
  frame_eq_record_iff.2 ⟨fits, (frame_eq_record_iff.1 framed).2⟩

namespace Walks

variable {s t : State} {fin fin' cur k stop : Nat}

/-- A record has at least 12 bytes. -/
theorem twelve_le (h : s.Walks fin cur k stop) : cur + 12 * k ≤ stop := by
  induction h with
  | here => omega
  | record _ _ _ ih =>
    rw [recordSize] at ih
    omega

/-- One more record at the end of a walk. -/
theorem snoc {len type crc : Word} (h : s.Walks fin cur k stop) (before : stop < fin)
    (framed : s.frame stop (fin - stop) = .record len type crc crc) :
    s.Walks fin cur (k + 1) (stop + recordSize len.toNat) := by
  induction h with
  | here => exact .record before framed (.here _)
  | record before' framed' _ ih => exact .record before' framed' (ih before framed)

/-- A walk reads only the records it passes, so it stands in every state that agrees on them, and in every longer stream. -/
theorem transfer (h : s.Walks fin cur k stop) (longer : fin ≤ fin')
    (agree : ∀ x, cur ≤ x → x < stop → s.byteAt x = t.byteAt x) : t.Walks fin' cur k stop := by
  induction h with
  | here => exact .here _
  | @record cur k stop len type crc before framed rest ih =>
    have past := rest.twelve_le
    have fits := (State.frame_eq_record_iff.1 framed).1
    have framed' : t.frame cur (recordSize len.toNat) = .record len type crc crc :=
      (State.frame_congr fun x lo hi => (agree x lo (by omega)).symm).trans (State.frame_of_fits framed le_rfl)
    exact .record (before.trans_le longer) (State.frame_of_fits framed' (by omega)) (ih fun x lo => agree x (by omega))

end Walks

end State

/-- Settles O45, by induction on the bytes left: each good record takes at least 12 of them. -/
theorem streamWalkEnds : Obligations.StreamWalkEnds := by
  intro s fin cur before
  induction left : fin - cur using Nat.strong_induction_on generalizing cur with
  | _ _ ih =>
    subst left
    obtain rfl | more := before.eq_or_lt
    · exact ⟨0, cur, .here cur, le_rfl, le_rfl, .inl rfl⟩
    obtain framed | ⟨len, type, stored, computed, framed, fits, -⟩ := s.frame_cases cur (fin - cur)
    · exact ⟨0, cur, .here cur, le_rfl, before, .inr (.inl framed)⟩
    by_cases same : computed = stored
    · subst same
      have size : recordSize len.toNat = 12 + len.toNat := rfl
      obtain ⟨k, stop, walks, -, inside, ends⟩ := ih _ (by omega) (cur + recordSize len.toNat) (by omega) rfl
      have whole : s.Walks fin cur (k + 1) stop := .record more framed walks
      exact ⟨k + 1, stop, whole, whole.twelve_le, inside, ends⟩
    · exact ⟨0, cur, .here cur, le_rfl, before, .inr (.inr ⟨len, type, stored, computed, framed, same⟩)⟩

/-! The loop of STREAM_PARSE (R164). -/

section Loop

variable {s : State} {fin cur fuel count : Nat} {len type stored computed crc : Word}

theorem State.walk_end (s : State) (fin fuel count : Nat) :
    s.walk fin fuel fin count = .next ({ s with chunkCount := word32 count, next := word32 fin }.complete .none) := by
  cases fuel with
  | zero => exact if_neg (lt_irrefl fin)
  | succ => exact if_neg (lt_irrefl fin)

section Round

variable (range : fin ≤ s.params.bufBytes) (more : cur < fin)
include range more

theorem State.inBuf_left : s.inBuf cur (fin - cur) := by
  rwa [State.inBuf, Nat.add_sub_cancel' more.le]

theorem State.walk_truncated (framed : s.frame cur (fin - cur) = .truncated) :
    s.walk fin (fuel + 1) cur count = .next ({ s with errOff := word32 cur }.complete .truncated) := by
  rw [State.walk, if_pos more, State.framing_eq (State.inBuf_left range more), framed]
  rfl

theorem State.walk_mismatch (framed : s.frame cur (fin - cur) = .record len type stored computed) (differ : computed ≠ stored) :
    s.walk fin (fuel + 1) cur count = .next ({ s with errOff := word32 cur }.complete .crcMismatch) := by
  rw [State.walk, if_pos more, State.framing_eq (State.inBuf_left range more), framed]
  exact if_neg differ

theorem State.walk_record (framed : s.frame cur (fin - cur) = .record len type crc crc) :
    s.walk fin (fuel + 1) cur count = s.walk fin fuel (cur + recordSize len.toNat) (count + 1) := by
  rw [State.walk, if_pos more, State.framing_eq (State.inBuf_left range more), framed]
  exact if_pos rfl

end Round

/-- Fuel for the bytes left is not used up before the end of the stream. -/
theorem fuel_left (enough : fin ≤ cur + fuel) (more : cur < fin) : ∃ rest, fuel = rest + 1 :=
  Nat.exists_eq_succ_of_ne_zero (by omega)

/-- The loop follows a walk to where it stops, counting its records, with fuel for the bytes left there. -/
theorem State.Walks.walk_eq {k stop : Nat} (h : s.Walks fin cur k stop) (range : fin ≤ s.params.bufBytes)
    (enough : fin ≤ cur + fuel) :
    ∃ rest, fin ≤ stop + rest ∧ s.walk fin fuel cur count = s.walk fin rest stop (count + k) := by
  induction h generalizing fuel count with
  | here => exact ⟨fuel, enough, rfl⟩
  | @record cur k stop len type crc more framed _ ih =>
    obtain ⟨fuel, rfl⟩ := fuel_left enough more
    have enough' : fin ≤ cur + recordSize len.toNat + fuel := by
      rw [recordSize]
      omega
    rw [State.walk_record range more framed, Nat.add_comm k, ← Nat.add_assoc]
    exact ih enough'

theorem exec_streamParse_eq (s : State) :
    exec .streamParse s =
      s.checkingStream (s.walk (s.src.toNat + s.len.toNat) s.len.toNat (s.src.toNat + 8) 0) := rfl

/-- After the signature, STREAM_PARSE goes on from wherever a walk of its records leads. -/
theorem exec_streamParse_walks {k stop : Nat} (range : s.inBuf s.src.toNat s.len.toNat) (long : 8 ≤ s.len.toNat)
    (signature : s.bytesAt s.src.toNat 8 = sig)
    (walks : s.Walks (s.src.toNat + s.len.toNat) (s.src.toNat + 8) k stop) :
    ∃ fuel, s.src.toNat + s.len.toNat ≤ stop + fuel ∧
      exec .streamParse s = s.walk (s.src.toNat + s.len.toNat) fuel stop k := by
  rw [exec_streamParse_eq, State.checkingStream_passed range long signature, ← Nat.zero_add k]
  exact walks.walk_eq range (by omega)

end Loop

/-- Settles O43: the loop follows the walk to the end of the stream. -/
theorem streamParseAccepts : Obligations.StreamParseAccepts := by
  refine ⟨decodeOfEncode .streamParse rfl, fun s k range long signature walks => ?_⟩
  obtain ⟨fuel, -, parse⟩ := exec_streamParse_walks range long signature walks
  exact parse.trans (s.walk_end _ fuel k)

/-- Settles O44: the checks before the loop, then the loop follows the walk to the record that fails. -/
theorem streamParseErrors : Obligations.StreamParseErrors := by
  rintro s k bad _ rfl
  refine ⟨State.checkingStream_range, State.checkingStream_truncated, State.checkingStream_badSignature,
    fun range long signature walks more => ?_⟩
  obtain ⟨fuel, enough, parse⟩ := exec_streamParse_walks range long signature walks
  obtain ⟨fuel, rfl⟩ := fuel_left enough more
  exact ⟨fun framed => parse.trans (State.walk_truncated range more framed),
    fun _ _ _ _ framed differ => parse.trans (State.walk_mismatch range more framed differ)⟩

/-! Streams that grow (R166, R167). -/

/-- A valid stream of `k` records in the `n` bytes from `base` on (30_encoding.md R88). -/
structure State.Stream (s : State) (base n k : Nat) : Prop where
  signature : s.bytesAt base 8 = sig
  records : s.Walks (base + n) (base + 8) k (base + n)

namespace State.Stream

variable {s t : State} {base n k : Nat}

theorem eight_le (h : s.Stream base n k) : 8 ≤ n := by
  have := h.records.twelve_le
  omega

theorem of_buf_eq (h : s.Stream base n k) (buf : t.buf = s.buf) : t.Stream base n k where
  signature := (bytesAt_of_buf_eq buf _ _).trans h.signature
  records := h.records.transfer le_rfl fun _ _ _ => byteAt_congr (by rw [buf])

/-- SIG_WRITE leaves a valid stream of no records (R166). -/
theorem of_signed (s : State) : s.signed.Stream s.dst.toNat 8 0 := ⟨s.bytesAt_signed, .here _⟩

/-- CHUNK_SERIALIZE at the end of a valid stream leaves one of one more record (R166, R167). -/
theorem serialized (h : s.Stream base n k) (atEnd : s.dst.toNat = base + n) :
    s.serialized.Stream base (n + recordSize s.len.toNat) (k + 1) := by
  have long := h.eight_le
  have kept : ∀ x < base + n, s.byteAt x = s.serialized.byteAt x := fun x hx =>
    (s.byteAt_serialized_outside (.inl (by omega))).symm
  have framed := s.frame_serialized (avail := base + n + recordSize s.len.toNat - (base + n)) (by omega)
  rw [atEnd] at framed
  have nonempty : 0 < recordSize s.len.toNat := Nat.add_pos_left (by decide) _
  constructor
  · exact (bytesAt_congr fun x _ hi => (kept x (by omega)).symm).trans h.signature
  · rw [← Nat.add_assoc]
    exact (h.records.transfer (Nat.le_add_right _ _) fun x _ => kept x).snoc (Nat.lt_add_of_pos_right nonempty) framed

/-- STREAM_PARSE over a valid stream counts its records and leaves NEXT at its end. -/
theorem parses (h : s.Stream base n k) (small : s.params.bufBytes ≤ 2 ^ 31) (range : s.inBuf base n) :
    ∃ u, exec .streamParse { s with src := BitVec.ofNat 32 base, len := BitVec.ofNat 32 n } = .next u ∧
      statusErrCode u.status = 0 ∧ u.chunkCount = BitVec.ofNat 32 k ∧ u.next = word32 (base + n) := by
  have src : (BitVec.ofNat 32 base).toNat = base := toNat_ofNat_of_le_bufBytes small (by omega)
  have len : (BitVec.ofNat 32 n).toNat = n := toNat_ofNat_of_le_bufBytes small (by omega)
  obtain ⟨signature, records⟩ :=
    h.of_buf_eq (t := { s with src := BitVec.ofNat 32 base, len := BitVec.ofNat 32 n }) rfl
  refine ⟨_, streamParseAccepts.2 _ k ?_ ?_ ?_ ?_, statusErrCode_statusCompleted _ .none, rfl, ?_⟩ <;> simp only [src, len]
  · exact range
  · exact h.eight_le
  · exact signature
  · exact records
  · rfl

end State.Stream

/-- Settles O59: the bytes SIG_WRITE and CHUNK_SERIALIZE leave are valid streams. -/
theorem streamsGrowRecordByRecord : Obligations.StreamsGrowRecordByRecord := by
  constructor
  · intro s range small
    obtain ⟨u, parse, noError, count, next⟩ := (State.Stream.of_signed s).parses small range
    rw [show BitVec.ofNat 32 s.dst.toNat = s.dst from word32_toNat s.dst] at parse
    exact ⟨s.signed, u, exec_sigWrite_stores range, parse, noError, count, next⟩
  · intro s base n k small signature records atEnd source dest apart
    rw [Nat.add_comm _ 12] at dest
    rw [Nat.add_comm _ 12, ← overlaps_iff_shared, ← atEnd] at apart
    have grown := State.Stream.serialized ⟨signature, records⟩ atEnd
    obtain ⟨u, parse, noError, count, next⟩ := grown.parses small (by rwa [State.inBuf, ← Nat.add_assoc])
    rw [recordSize, Nat.add_comm 12] at parse
    have serialize := exec_chunkSerialize_stores ⟨source, by rwa [← atEnd] at dest⟩ apart
    refine ⟨s.serialized, u, serialize, parse, noError, count, ?_⟩
    rw [next, ← Nat.add_assoc, ← atEnd]
    rfl

end Sys2Proof.Machine
end

section
/-! PROOFS. 44_control.md: NOP (R180) and the completion of an illegal word with BAD_COMMAND (R181). -/

namespace Sys2Proof

/-! The fields of the defined words (30_encoding.md R83). -/

theorem reservedField_of_mem_definedWords {w : Word} (mem : w ∈ definedWords) : reservedField w = 0 := by
  rw [mem_definedWords_iff] at mem
  rw [reservedField_eq_zero_iff]
  omega

theorem definedWords_map_opcodeField :
    definedWords.map opcodeField =
      [0x00#8, 0x01#8, 0x02#8, 0x03#8, 0x04#8, 0x10#8, 0x11#8, 0x20#8, 0x21#8, 0x30#8, 0x31#8, 0x32#8] := rfl

/-- A reserved bit set, or an opcode outside the map, takes a word out of the defined ones. -/
theorem notMem_definedWords_of_fields {w : Word}
    (illegal : reservedField w ≠ 0 ∨ opcodeField w ∉ definedWords.map opcodeField) : w ∉ definedWords := fun mem =>
  illegal.elim (fun reserved => reserved (reservedField_of_mem_definedWords mem))
    fun outside => outside (List.mem_map_of_mem mem)

end Sys2Proof

namespace Sys2Proof.Machine

open Sys2Proof

/-! What the two commands run (R180, R181). -/

theorem exec_nop (s : State) : exec .nop s = .next (s.complete .none) := rfl

theorem exec_badCommand (w : Word) (s : State) : exec (.badCommand w) s = .next (s.complete .badCommand) := rfl

/-- Settles O29: the word 0 is NOP's own word, and NOP only completes. -/
theorem nopCompletes : Obligations.NopCompletes := ⟨decodeOfEncode .nop rfl, exec_nop⟩

/-- Settles O30: a word with such fields is no defined word, and BAD_COMMAND only completes. -/
theorem badCommandCompletes : Obligations.BadCommandCompletes := by
  intro w s
  refine ⟨fun illegal => decodeCommand_of_notMem (notMem_definedWords_of_fields ?_), exec_badCommand w s, rfl⟩
  rwa [definedWords_map_opcodeField]

end Sys2Proof.Machine
end

section
/-! PROOFS. 60_exceptions.md: completion (R208, R210), the range check (R204), and a host write in the same step as a completion
(R214). -/

namespace Sys2Proof.Machine

open Sys2Proof

/-! Completion (R200, R201, R208, R210). -/

/-- Completion adds DONE, and ERR on an error, to INT_STATUS. -/
theorem intCompleted_eq (int : Word) (e : ErrCode) :
    intCompleted int e = int ||| (if e.code = 0 then 0x1#32 else 0x3#32) := by
  rw [intCompleted]
  split
  · rfl
  · exact BitVec.or_assoc int intDone intErr

/-- Settles O10: the fields of STATUS and INT_STATUS that completion writes, and those it keeps. -/
theorem completionSetsStatusAndDone : Obligations.CompletionSetsStatusAndDone := fun s e _ =>
  ⟨rfl, rfl, statusErrCode_statusCompleted _ _, statusErr_statusCompleted _ _, statusBusy_statusCompleted _ _,
    statusLastOp_statusCompleted _ _, statusCompleted_and_reserved _ _, intCompleted_eq s.intStatus e⟩

/-- Settles O9: a command ends in a completion with an error kind of its own. -/
theorem commandsCompleteWithTheirErrors : Obligations.CommandsCompleteWithTheirErrors := by
  intro i s
  obtain ⟨u, e, runs, run⟩ := exec_completesAs i s
  have code : e.code ≠ 3 := fun h => runs.error_ne_unknownLength (ErrCode.code_injective h)
  refine ⟨u.complete e, e, run, runs.error_possible, rfl, statusBusy_statusCompleted _ _, statusErrCode_statusCompleted _ _,
    statusErr_statusCompleted _ _, intCompleted_done _ _, fun he => intCompleted_err _ (bne_iff_ne.2 he), ?_⟩
  rwa [State.complete_status, statusErrCode_statusCompleted]

/-- Settles O8: a step is a host move, which answers, or a command, which completes. -/
theorem everyStepAnswers : Obligations.EveryStepAnswers := by
  intro s
  obtain ⟨w, u, -, run⟩ | ⟨u, -, moved⟩ := step_eq s
  · obtain ⟨t, e, completes, -⟩ := commandsCompleteWithTheirErrors (decodeCommand w) u
    exact ⟨t, run.trans completes⟩
  · exact ⟨u, moved⟩

/-! The range check (R204). -/

/-- A range outside BUF ends the command with RANGE before it does anything; a command that checks no range has none. -/
theorem exec_range_of_past {i : Instr} {s : State} (past : ∃ r ∈ s.checkedRanges i, s.params.bufBytes < r.1 + r.2) :
    exec i s = .next (s.complete .range) := by
  cases i <;> simp only [State.checkedRanges, List.exists_mem_cons_iff, List.not_mem_nil, false_and, exists_false,
    or_false] at past
  case crcUpdate => exact exec_crcUpdate_range (Nat.not_le.2 past)
  case chunkNew => exact exec_chunkNew_range (Nat.not_le.2 past)
  case chunkParse => exact exec_chunkParse_range (Nat.not_le.2 past)
  case chunkSerialize => exact exec_chunkSerialize_range (by simp only [State.serializeInBuf, State.inBuf, recordSize]; omega)
  case sigCheck => exact State.checkingStream_range past
  case sigWrite => exact exec_sigWrite_range past
  case streamParse => exact State.checkingStream_range past

/-- `r` is a completion with another code than that of RANGE. -/
def CompletesWithoutRange (r : Result) : Prop := ∃ t, r = .next t ∧ statusErrCode t.status ≠ 7

theorem CompletesWithoutRange.of_complete {r : Result} {s : State} {e : ErrCode} (run : r = .next (s.complete e))
    (code : e.code ≠ 7 := by decide) : CompletesWithoutRange r :=
  ⟨_, run, by rwa [State.complete_status, statusErrCode_statusCompleted]⟩

/-- A command that has no RANGE among its errors (R200) never completes with it. -/
theorem exec_withoutRange_of_not_possible {i : Instr} (never : .range ∉ possibleErrors i) (s : State) :
    CompletesWithoutRange (exec i s) := by
  obtain ⟨u, e, runs, run⟩ := exec_completesAs i s
  refine .of_complete run fun code => never ?_
  obtain rfl : e = .range := ErrCode.code_injective code
  exact runs.error_possible

section Checked

variable {s : State} (range : s.inBuf s.src.toNat s.len.toNat)
include range

theorem exec_chunkParse_withoutRange : CompletesWithoutRange (exec .chunkParse s) := by
  obtain framed | ⟨len, type, stored, computed, framed, -⟩ := s.frame_cases s.src.toNat s.len.toNat
  · exact .of_complete (exec_chunkParse_truncated range framed)
  · obtain rfl | differ := eq_or_ne computed stored
    · exact .of_complete (exec_chunkParse_accepts range framed)
    · exact .of_complete (exec_chunkParse_mismatch range framed differ)

theorem State.checkingStream_withoutRange {k : Result} (passed : 8 ≤ s.len.toNat → CompletesWithoutRange k) :
    CompletesWithoutRange (s.checkingStream k) := by
  by_cases long : 8 ≤ s.len.toNat
  · by_cases signature : s.bytesAt s.src.toNat 8 = sig
    · rw [checkingStream_passed range long signature]
      exact passed long
    · exact .of_complete (checkingStream_badSignature range long signature)
  · exact .of_complete (checkingStream_truncated range (Nat.not_le.1 long))

end Checked

theorem exec_chunkSerialize_withoutRange {s : State} (ranges : s.serializeInBuf) :
    CompletesWithoutRange (exec .chunkSerialize s) := by
  by_cases shared : s.serializeOverlaps
  · exact .of_complete (exec_chunkSerialize_overlap ranges shared)
  · exact .of_complete (exec_chunkSerialize_stores ranges shared)

/-- The loop ends where its walk does: at the end of the stream, or at a record that fails (43_stream.md R164). -/
theorem State.walk_withoutRange {s : State} {fin fuel cur count : Nat} (range : fin ≤ s.params.bufBytes) (before : cur ≤ fin)
    (enough : fin ≤ cur + fuel) : CompletesWithoutRange (s.walk fin fuel cur count) := by
  obtain ⟨k, stop, walks, -, inside, ends⟩ := streamWalkEnds s fin cur before
  obtain ⟨rest, enough', follows⟩ := walks.walk_eq (count := count) range enough
  rw [follows]
  obtain rfl | more := inside.eq_or_lt
  · exact .of_complete (s.walk_end _ _ _)
  · obtain ⟨rest, rfl⟩ := fuel_left enough' more
    obtain framed | ⟨len, type, stored, computed, framed, differ⟩ := ends.resolve_left more.ne
    · exact .of_complete (walk_truncated range more framed)
    · exact .of_complete (walk_mismatch range more framed differ)

/-- A command whose ranges all lie in BUF ends with another code than that of RANGE. -/
theorem exec_withoutRange {i : Instr} {s : State} (inside : ∀ r ∈ s.checkedRanges i, r.1 + r.2 ≤ s.params.bufBytes) :
    CompletesWithoutRange (exec i s) := by
  cases i <;> simp only [State.checkedRanges, List.mem_cons, List.not_mem_nil, or_false, forall_eq_or_imp,
    forall_eq] at inside
  case crcUpdate => exact .of_complete (exec_crcUpdate_inBuf inside)
  case chunkNew => exact .of_complete (exec_chunkNew_inBuf inside)
  case chunkParse => exact exec_chunkParse_withoutRange inside
  case chunkSerialize =>
    obtain ⟨source, dest⟩ := inside
    exact exec_chunkSerialize_withoutRange ⟨source, by rwa [State.inBuf, recordSize, Nat.add_comm 12]⟩
  case sigCheck => exact State.checkingStream_withoutRange inside fun _ => .of_complete rfl
  case sigWrite => exact .of_complete (exec_sigWrite_stores inside)
  case streamParse =>
    exact State.checkingStream_withoutRange inside fun long => State.walk_withoutRange inside (by omega) (by omega)
  case badCommand w => exact exec_withoutRange_of_not_possible (i := .badCommand w) (by simp [possibleErrors]) s
  case nop | crcInit | crcFinal | typeClassify | typeCheckText => exact exec_withoutRange_of_not_possible (by decide) s

/-- Settles O46: the check fails before the command does anything, and nothing after it raises RANGE. -/
theorem rangeCheck : Obligations.RangeCheck := fun _ _ => ⟨exec_range_of_past, exec_withoutRange⟩

/-! A host write in the same step as a completion (R214). -/

namespace State

/-- A host move that writes a CSR is the write, answered OK. -/
theorem perform_csrw (s : State) (r : Csr) (d : Word) :
    s.perform (csrw r d) = { s.hostWriteCsr r d with replies := .written :: s.replies } := by
  rw [perform, access_csrw, (s.hostWriteCsr_hostSide r d).2]

/-- A write that is dropped sets OVR and is answered (10_state.md R55). -/
theorem perform_csrw_dropped {s : State} (busy : s.seq.isBusy = true) {r : Csr}
    (hr : r ∈ [Csr.cmd, .src, .len, .dst, .type, .crcState]) (d : Word) :
    s.perform (csrw r d) = { s with intStatus := s.intStatus ||| intOvr, replies := .written :: s.replies } := by
  rw [perform_csrw, hostWriteCsr_dropped busy hr]

theorem storeRange_withMoves (s : State) (ms : List Move) (i : Instr) : (s.withMoves ms).storeRange i = s.storeRange i := by
  cases i <;> rfl

theorem softReset_withMoves (s : State) (ms : List Move) : (s.withMoves ms).softReset = s.softReset.withMoves ms := by
  simp only [softReset, abort, storeRange_withMoves, withMoves_seq]
  split
  · rfl
  · split <;> rfl

theorem params_softReset (s : State) : s.softReset.params = s.params := by
  obtain same | ⟨w, d, n, -, -, stored⟩ := s.abort_cases
  · rw [softReset, same]; rfl
  · rw [softReset, stored]; rfl

/-- A soft reset puts every CSR at its reset value (70_reset_and_hazards.md R231). -/
theorem readCsr_softReset (s : State) (r : Csr) : s.softReset.readCsr r = (powerOn s.params).readCsr r := by
  rw [← s.params_softReset]
  cases r <;> rfl

end State

section Both

variable {s : State} {w : Word} {a : Access} {rest : List Move} (hs : s.seq = .busy w) (hm : s.moves = .both a :: rest)
include hs hm

theorem State.turn_both : s.turn = ((s.withMoves rest).perform a).blockTurn := by
  simp only [State.turn, hm, State.bothTurn, State.withMoves_seq, hs]

/-- The completion follows the access, if the command is still pending. -/
theorem step_both_completes (pending : ((s.withMoves rest).perform a).seq = .busy w) :
    step s = exec (decodeCommand w) ((s.withMoves rest).perform a) :=
  step_of_completes ((State.turn_both hs hm).trans (State.blockTurn_busy pending))

/-- A soft reset leaves nothing to complete. -/
theorem step_both_abandoned (idle : ((s.withMoves rest).perform a).seq = .idle) :
    step s = .next ((s.withMoves rest).perform a) :=
  step_of_moved ((State.turn_both hs hm).trans (State.blockTurn_idle idle))

end Both

/-- Settles O27: the access comes first, then the completion of what is still pending. -/
theorem simultaneousEvents : Obligations.SimultaneousEvents := by
  refine fun s w rest hs => ⟨fun r hr d hm => ?_, fun d hm => ?_, fun d reset hm => ?_⟩
  · have performed := State.perform_csrw_dropped (s := s.withMoves rest) (Seq.isBusy_of_eq hs) hr d
    have run := step_both_completes hs hm (by rw [performed]; exact hs)
    rw [performed] at run
    obtain ⟨t, -, answers, -, idle, -, -, -, done, -⟩ := commandsCompleteWithTheirErrors (decodeCommand w) _
    obtain ⟨-, src, len, dst, type, -⟩ := registerFrame _ _ _ answers
    obtain ⟨-, -, -, sticky⟩ := statusFrame _ _ _ answers
    exact ⟨t, run.trans answers, answers, idle, done, sticky 2 (by simp [intOvr]), src, len, dst, type⟩
  · have run := step_both_completes hs hm (by rw [State.perform_csrw]; exact hs)
    obtain ⟨t, e, answers, -, idle, -, -, err, done, errBit, -⟩ :=
      commandsCompleteWithTheirErrors (decodeCommand w) ((s.withMoves rest).perform (csrw .intStatus d))
    obtain ⟨-, -, kept, -⟩ := statusFrame _ _ _ answers
    refine ⟨t, run.trans answers, idle, done, fun h => errBit (bne_iff_ne.1 (err ▸ h)), fun hd => ?_⟩
    rw [kept 2 le_rfl, State.perform_csrw]
    simp [State.hostWriteCsr, hd]
  · have performed : (s.withMoves rest).perform (csrw .ctrl d) =
        { s.softReset.withMoves rest with replies := .written :: s.replies } := by
      rw [State.perform_csrw, State.hostWriteCsr, if_pos reset, State.softReset_withMoves]
      rfl
    refine ⟨_, step_both_abandoned hs hm (by rw [performed]; rfl), ?_⟩
    rw [performed]
    refine ⟨rfl, fun r => ?_, rfl⟩
    rw [← s.readCsr_softReset r]
    cases r <;> rfl

end Sys2Proof.Machine
end

section
/-! PROOFS. 70_reset_and_hazards.md: power-on reset (R230), soft reset (R231), and the end of a pending command (R240). -/

namespace Sys2Proof.Machine

open Sys2Proof

/-! The end of a pending command (R240). -/

/-- The block's own move leaves only an IDLE block without a completion. -/
theorem State.idle_of_blockTurn_moved {s t : State} (h : s.blockTurn = .moved t) : t.seq = .idle := by
  cases hs : s.seq with
  | idle =>
    rw [blockTurn_idle hs] at h
    cases h
    exact hs
  | busy w =>
    rw [blockTurn_busy hs] at h
    exact Turn.noConfusion h

theorem State.moves_perform (s : State) (a : Access) : (s.perform a).moves = s.moves := (s.access_hostSide a).1

/-- A round of `wait` that completes nothing uses up a read, or ends the `wait`. -/
theorem State.stepBudget_of_waitTurn_moved {s t : State} {w : Word} {polls : Nat} {rest : List Move} (hs : s.seq = .busy w)
    (h : s.waitTurn polls rest = .moved t) : stepBudget t.moves < polls + 1 + stepBudget rest := by
  unfold State.waitTurn at h
  split at h
  case isTrue =>
    cases h
    rw [moves_perform, withMoves_moves]
    omega
  case isFalse =>
    rw [hs] at h
    cases polls with
    | zero => exact Turn.noConfusion h
    | succ polls =>
      cases h
      rw [moves_perform, withMoves_moves, stepBudget]
      omega

/-- A move that completes nothing ends the pendency or uses up some of the moves to come. -/
theorem State.turn_moved_progress {s t : State} {w : Word} (hs : s.seq = .busy w) (h : s.turn = .moved t) :
    t.seq = .idle ∨ stepBudget t.moves < stepBudget s.moves := by
  unfold State.turn at h
  split at h
  case h_1 => exact .inl (idle_of_blockTurn_moved h)
  case h_2 => exact .inl (idle_of_blockTurn_moved h)
  case h_3 a rest hm =>
    cases h
    rw [moves_perform, withMoves_moves, hm, stepBudget]
    exact .inr (by omega)
  case h_4 a rest hm =>
    rw [bothTurn, withMoves_seq, hs] at h
    exact .inl (idle_of_blockTurn_moved h)
  case h_5 polls rest hm =>
    rw [hm]
    exact .inr (stepBudget_of_waitTurn_moved hs h)

/-- A step of a BUSY block completes the command, abandons it, or uses up some of the moves to come. -/
theorem step_progress {s : State} {w : Word} (hs : s.seq = .busy w) :
    ∃ t, step s = .next t ∧ (t.seq = .idle ∨ stepBudget t.moves < stepBudget s.moves) := by
  obtain ⟨w', u, -, run⟩ | ⟨u, moved, answer⟩ := step_eq s
  · obtain ⟨t, -, completes, -, idle, -⟩ := commandsCompleteWithTheirErrors (decodeCommand w') u
    exact ⟨t, run.trans completes, .inl idle⟩
  · exact ⟨u, answer, State.turn_moved_progress hs moved⟩

theorem stepBudget_pos (ms : List Move) : 1 ≤ stepBudget ms := by
  cases ms with
  | nil => exact le_rfl
  | cons m ms => cases m <;> rw [stepBudget] <;> omega

theorem run_succ_of_step {s t : State} (h : step s = .next t) (k : Nat) :
    Host.Core.run core (k + 1) s = Host.Core.run core k t := by
  have answer : core.step s = .next t := h
  simp only [Host.Core.run, answer]

/-- By recursion on the budget of the moves to come: a step from a BUSY state ends the pendency or uses up some of it. -/
theorem run_reaches_idle (s : State) :
    ∃ k t, k ≤ stepBudget s.moves ∧ Host.Core.run core k s = .next t ∧ State.seq t = .idle := by
  cases hs : s.seq with
  | idle => exact ⟨0, s, Nat.zero_le _, rfl, hs⟩
  | busy w =>
    obtain ⟨t, answer, idle | fewer⟩ := step_progress hs
    · exact ⟨1, t, stepBudget_pos _, run_succ_of_step answer 0, idle⟩
    · obtain ⟨k, u, bound, run, idle⟩ := run_reaches_idle t
      exact ⟨k + 1, u, by omega, (run_succ_of_step answer k).trans run, idle⟩
termination_by stepBudget s.moves

/-- Settles O14: every state, BUSY ones included, is followed by an IDLE one within the budget of its moves. -/
theorem pendingCommandEnds : Obligations.PendingCommandEnds := fun s _ _ => run_reaches_idle s

/-! Soft reset (R231). -/

namespace State

/-- With every source masked `irq` is low (10_state.md R46). -/
theorem irq_of_intEnable_zero {s : State} (masked : s.intEnable = 0) : s.irq = false := by
  simp [irq, masked]

theorem access_softReset (s : State) {v : Word} (hv : v.getLsbD 0 = true) :
    s.access (csrw .ctrl v) = (s.softReset, .written) := by
  rw [access_csrw, hostWriteCsr, if_pos hv]

/-- The reset of the CSRs leaves the bytes of BUF. -/
theorem byteAt_softReset (s : State) (x : Nat) : s.softReset.byteAt x = s.abort.byteAt x := rfl

theorem byteAt_softReset_outside {s : State} {x : Nat}
    (outside : ∀ w d n, s.seq = .busy w → s.storeRange (decodeCommand w) = some (d, n) → x < d ∨ d + n ≤ x) :
    s.softReset.byteAt x = s.byteAt x := by
  rw [byteAt_softReset]
  obtain same | ⟨w, d, n, busy, range, stored⟩ := s.abort_cases
  · rw [same]
  · rw [stored]
    exact s.byteAt_withBytes_outside _ (by simpa using outside w d n busy range)

theorem abort_of_storeRange {s : State} {w : Word} {d n : Nat} (busy : s.seq = .busy w)
    (range : s.storeRange (decodeCommand w) = some (d, n)) :
    s.abort = { s.withBytes d (freeBytes s.draws n) with draws := s.draws + n } := by
  simp only [abort, busy, range]

theorem byteAt_softReset_inside {s : State} {w : Word} {d n k : Nat} (busy : s.seq = .busy w)
    (range : s.storeRange (decodeCommand w) = some (d, n)) (hk : k < n) :
    s.softReset.byteAt (d + k) = Config.freeByte (s.draws + k) := by
  have inside : k < (freeBytes s.draws n).length := by rwa [freeBytes_length]
  rw [byteAt_softReset, abort_of_storeRange busy range, ← freeBytes_getElem s.draws n inside]
  exact s.byteAt_withBytes_inside d _ inside

/-! The destinations. -/

theorem storeRange_chunkSerialize_iff (s : State) (d n : Nat) :
    s.storeRange .chunkSerialize = some (d, n) ↔
      (s.serializeInBuf ∧ ¬ s.serializeOverlaps) ∧ s.dst.toNat = d ∧ recordSize s.len.toNat = n := by
  rw [storeRange, Option.ite_none_right_eq_some, Option.some.injEq, Prod.mk.injEq]

theorem storeRange_sigWrite_iff (s : State) (d n : Nat) :
    s.storeRange .sigWrite = some (d, n) ↔ s.inBuf s.dst.toNat 8 ∧ s.dst.toNat = d ∧ 8 = n := by
  rw [storeRange, Option.ite_none_right_eq_some, Option.some.injEq, Prod.mk.injEq]

theorem storeRange_eq_none (s : State) {i : Instr} (serialize : i ≠ .chunkSerialize) (write : i ≠ .sigWrite) :
    s.storeRange i = none := by
  cases i with
  | chunkSerialize => exact absurd rfl serialize
  | sigWrite => exact absurd rfl write
  | _ => rfl

end State

/-- Settles O26: the write is a soft reset, which aborts the pending command and then resets the CSRs. -/
theorem softResetResults : Obligations.SoftResetResults := by
  refine fun s v hv => ⟨_, s.access_softReset hv, rfl, s.params_softReset, s.readCsr_softReset, State.irq_of_intEnable_zero rfl,
    fun x => State.byteAt_softReset_outside, fun w d n busy range k => State.byteAt_softReset_inside busy range,
    fun d n => ?_, fun d n => ?_, fun i => s.storeRange_eq_none⟩
  · rw [s.storeRange_chunkSerialize_iff, Nat.add_comm _ 12, ← recordSize, ← overlaps_iff_shared, and_assoc, and_assoc,
      eq_comm (a := d), eq_comm (a := n)]
  · rw [s.storeRange_sigWrite_iff, eq_comm (a := d), eq_comm (a := n)]

/-! Power-on reset (R230). -/

/-- Every register but ID, CRC_STATE, CONFIG and FEATURES resets to 0. -/
theorem State.readCsr_powerOn_zero (p : Params) {r : Csr} (hr : r ∉ [Csr.id, .crcState, .config, .features]) :
    (powerOn p).readCsr r = 0 := by
  cases r with
  | id | crcState | config | features => exact absurd (by decide) hr
  | _ => rfl

/-- Settles O5: the registers by their reset values, then the reserved offsets, `irq` and BUF. -/
theorem powerOnValues : Obligations.PowerOnValues := fun p =>
  ⟨rfl, rfl, rfl, rfl, rfl, fun _ => State.readCsr_powerOn_zero p,
    fun _ h4 hlo hhi => congrArg Prod.snd ((State.powerOn p).access_reserved h4 hlo hhi .read),
    State.irq_of_intEnable_zero rfl, fun _ => rfl⟩

/-- Settles O6: power-on gives the CSRs the values that a soft reset gives them, and BUF lists no byte. -/
theorem powerOnMeetsInvariant : Obligations.PowerOnMeetsInvariant := fun p legal =>
  State.Inv.of_resetCsrs (s := State.powerOn p) legal (State.powerOn_buf_wf p) (List.forall_mem_nil _)

end Sys2Proof.Machine
end
